-- ==== Sys2Proof/Word.lean ====
section
/-!
DEFINITION. The word types of the codec block: the 32-bit command word, the octet, the septet and the nibble, and the two
sequence types of 00_scope.md R10.
-/

namespace Sys2Proof

/-- The command word (30_encoding.md R70). -/
abbrev Word := BitVec 32

/-- One octet of a wire format (20_memory.md R51). -/
abbrev Octet := BitVec 8

/-- One 7-bit character unit (00_scope.md, glossary; 20_memory.md R52). -/
abbrev Septet := BitVec 7

/-- One hex digit's value, a Numbering-Plan code (00_scope.md R11, 10_state.md R34). -/
abbrev Nibble := BitVec 4

/-- A hex buffer's contents: ANY characters, so that a character that is no hex digit can reach a command and be refused by
it (10_state.md R22). -/
abbrev HexString := List Char

/-- A text: Unicode scalar values, which are exactly the values of `Char` (00_scope.md R10, 10_state.md R22). -/
abbrev Text := List Char

end Sys2Proof
end

