-- ==== Sys2Proof/Config.lean ====
section
/-!
DEFINITION. The implementation parameters of 00_scope.md R7 as one record of plain data, and the free values. The record is
held in State (10_state.md R36 lists the tables among the state), so a statement about every state is a statement about every
table. The default contents are in Machine/Rom.lean.
-/

namespace Sys2Proof

/-- The names of the Type-Of-Number codes (10_state.md R33). -/
inductive TonName where
  | unknown | international | national | networkSpecific | subscriber | alphanumeric | abbreviated | reservedForExtension
deriving DecidableEq, Repr

/-- The names of the Numbering-Plan codes of the default set (10_state.md R34). -/
inductive NpiName where
  | unknown | isdn | data | telex | serviceCentreSpecific1 | serviceCentreSpecific2 | national | privatePlan | ermes
  | reservedForExtension
deriving DecidableEq, Repr

/-- A character table: rows of an index and the character it stands for (10_state.md R29). An index with no row is UNMAPPED. -/
abbrev CharTable := List (Septet × Char)

/-- The ROM tables and the capacities (00_scope.md R7, 10_state.md R28). -/
structure Config where
  /-- GSM7_STD (R30): a row for every index but the escape. -/
  gsm7Std : CharTable
  /-- GSM7_EXT (R31): sparse. -/
  gsm7Ext : CharTable
  /-- NPI_DEFINED (R34). -/
  npiDefined : List Nibble
  /-- The reader's names of the TON codes (R33); no command reads them (R211). -/
  tonNames : List (BitVec 3 × TonName)
  /-- The reader's names of the NPI codes (R34); no command reads them (R211). -/
  npiNames : List (Nibble × NpiName)
  /-- MAX_HEX, in hex digits; `none` is unbounded (D8). -/
  maxHex : Option Nat
  /-- MAX_TEXT, in code points; `none` is unbounded (D8). -/
  maxText : Option Nat
deriving DecidableEq, Repr

/-- FREE VALUE (log 2): how many host turns the n-th command stays BUSY. The spec says only "a finite, unspecified delay"
(70_reset_and_hazards.md R262). -/
opaque Config.freeBusyDelay : Nat → Nat

/-- FREE VALUE (log 9): what a standard index yields that a substituted GSM7_STD has no row for. R29 rules such a table out. -/
opaque Config.freeStdChar : Septet → Char

/-- FREE VALUE (log 9): PAD_IDX under a substituted GSM7_STD that lacks the carriage return, where `stdIndex(U+000D)` (D35)
does not exist. -/
opaque Config.freePadIndex : Septet

end Sys2Proof
end

