-- ==== Sys2Proof/Syntax.lean ====
section
/-!
DEFINITION. Syntax: the ten commands (30_encoding.md R71), the command word's fields before they are checked (R70), the record
of 10_state.md R23, and the host program's actions (30_encoding.md R76).
-/

namespace Sys2Proof

/-- The commands, one constructor per row of the opcode table (30_encoding.md R71). DEC7 and ENC7 carry the P bit, the only
operand in the word (R74): `stripPadding` and `withPadding`. -/
inductive Instr where
  | revo
  | swpn
  | dec7 (strip : Bool)
  | enc7 (pad : Bool)
  | decdate
  | encdate
  | decnum
  | encnum
  | dectoa
  | enctoa
deriving DecidableEq, Repr

/-- The three fields of a command word, unchecked (30_encoding.md R70). -/
structure CommandFields where
  rsv : BitVec 23
  p : Bool
  opcode : BitVec 8
deriving DecidableEq, Repr

/-- Why a word is not dispatched (30_encoding.md R72), in the order of its checks. All three raise IllegalCommand. -/
inductive IllegalReason where
  | unknownOpcode
  | reservedBits
  | flagNotAllowed
deriving DecidableEq, Repr

/-- What the command decoder answers: a command, or the reason the word is illegal. -/
inductive Decoded where
  | command (i : Instr)
  | illegal (why : IllegalReason)
deriving DecidableEq, Repr

/-- The record of IN_REC and OUT_REC (10_state.md R23). `tzQuarters` is two's complement, read by `toInt`. The default values
are those a `wr IN_REC` line gives the fields it omits (30_encoding.md R76). -/
structure Rec where
  year : BitVec 16 := 0
  month : BitVec 8 := 0
  day : BitVec 8 := 0
  hour : BitVec 8 := 0
  minute : BitVec 8 := 0
  second : BitVec 8 := 0
  tzPresent : BitVec 1 := 0
  tzQuarters : BitVec 8 := 0
  ton : BitVec 8 := 0
  npi : BitVec 8 := 0
deriving DecidableEq, Repr

/-- Every field 0 (10_state.md R24, R36). -/
def Rec.zero : Rec := {}

/-- The registers and buffers of 10_state.md R22, as a host's read names them. -/
inductive Reg where
  | cmd | status | errcode | inHex | inText | inRec | outHex | outText | outRec
deriving DecidableEq, Repr

/-- What a read of a register gives the host. -/
inductive RegValue where
  | word (v : Word)
  | status (v : BitVec 2)
  | errcode (v : BitVec 3)
  | hex (v : HexString)
  | text (v : Text)
  | record (v : Rec)
deriving DecidableEq, Repr

/-- One value the host has read, with the register it read (70_reset_and_hazards.md R263). -/
structure Observation where
  reg : Reg
  value : RegValue
deriving DecidableEq, Repr

/-- What the outside world does, one action at a time: the host actions of 30_encoding.md R76, and the reset event of
70_reset_and_hazards.md R260. A text reaches the port as raw numbers, because the port refuses a surrogate (D33). -/
inductive HostAction where
  | wrHex (chars : List Char)
  | wrText (values : List Nat)
  | wrRec (r : Rec)
  | cmd (w : Word)
  | wait
  | rd (r : Reg)
  | reset
deriving DecidableEq, Repr

end Sys2Proof
end

