-- ==== Sys2Proof/WellFormed.lean ====
section
/-!
DEFINITION. Well-formedness: of a command word's fields (30_encoding.md R72) and of the tables (10_state.md R29, R33). An
instruction's own check stands beside the encoder, in Decode.lean.
-/

namespace Sys2Proof

/-- The ten OPCODE values of 30_encoding.md R71. -/
def knownOpcodes : List (BitVec 8) := [0x01, 0x02, 0x10, 0x11, 0x20, 0x21, 0x30, 0x31, 0x40, 0x41]

/-- The two opcodes whose P bit may be set (R70, R71). -/
def flagOpcodes : List (BitVec 8) := [0x10, 0x11]

/-- Check 1 of R72: the OPCODE is one of R71. -/
def CommandFields.opcodeKnown (f : CommandFields) : Bool := knownOpcodes.contains f.opcode

/-- Check 2 of R72: RSV is 0. -/
def CommandFields.reservedZero (f : CommandFields) : Bool := f.rsv == 0

/-- Check 3 of R72: P is 0 unless the opcode is DEC7 or ENC7. -/
def CommandFields.flagAllowed (f : CommandFields) : Bool := !f.p || flagOpcodes.contains f.opcode

/-- The fields of a word that R72 dispatches. -/
def CommandFields.wellFormed (f : CommandFields) : Bool := f.opcodeKnown && f.reservedZero && f.flagAllowed

/-- The escape index (00_scope.md R7: "ESC = 0x1B"). -/
def escIndex : Septet := 0x1B

/-- PAD_CP, the carriage return (41_gsm7.md, constants). -/
def padChar : Char := Char.ofNat 0x0D

/-- U+001B, the escape as a character (10_state.md R32, D15). -/
def escChar : Char := Char.ofNat 0x1B

/-- No value stands twice, as a Bool that evaluates fast. -/
def distinct : List Nat → Bool
  | [] => true
  | a :: l => !l.contains a && distinct l

/-- The indices a table has rows for, as numbers. -/
def tableIndices (t : CharTable) : List Nat := t.map fun r => r.1.toNat

/-- The code points a table maps to. -/
def tableChars (t : CharTable) : List Nat := t.map fun r => r.2.toNat

/-- GSM7_STD is a function on the 127 indices other than the escape: one row for each, and none for the escape
(10_state.md R29, 90_conflicts.md C7). -/
def Config.stdComplete (c : Config) : Bool :=
  distinct (tableIndices c.gsm7Std) &&
    (List.range 128).all fun i => (tableIndices c.gsm7Std).contains i == (i != escIndex.toNat)

/-- R29 (a): GSM7_STD is injective off the escape. -/
def Config.stdInjective (c : Config) : Bool := distinct (tableChars c.gsm7Std)

/-- GSM7_EXT is a function of the index: no index has two rows (R29). -/
def Config.extFunctional (c : Config) : Bool := distinct (tableIndices c.gsm7Ext)

/-- R29 (b): no code point is in both tables. -/
def Config.tablesDisjoint (c : Config) : Bool :=
  (tableChars c.gsm7Ext).all fun ch => !(tableChars c.gsm7Std).contains ch

/-- R29 (c): GSM7_EXT is injective on its mapped indices. -/
def Config.extInjective (c : Config) : Bool := distinct (tableChars c.gsm7Ext)

/-- The carriage return is in GSM7_STD, so that PAD_IDX = stdIndex(U+000D) exists (D35; log 9). -/
def Config.padMapped (c : Config) : Bool := (tableChars c.gsm7Std).contains padChar.toNat

/-- All 8 Type-Of-Number patterns are named (R33). -/
def Config.tonComplete (c : Config) : Bool :=
  (List.range 8).all fun i => (c.tonNames.map fun r => r.1.toNat).contains i

/-- What the spec requires of the parameters (10_state.md R29, R33). A table that maps an index to U+001B may pass: R29's three
conditions do not speak of it (log 15). -/
def Config.wellFormed (c : Config) : Bool :=
  c.stdComplete && c.stdInjective && c.extFunctional && c.tablesDisjoint && c.extInjective && c.padMapped && c.tonComplete

end Sys2Proof
end

