-- ==== Sys2Proof/Decode.lean ====
section
/-!
DEFINITION. The command decoder (30_encoding.md R72), total on all 2^32 words, and the encoder (R75).
-/

namespace Sys2Proof

/-- The fields of a command word (30_encoding.md R70). -/
def fieldsOf (w : Word) : CommandFields :=
  { rsv := w.extractLsb' 9 23, p := w.getLsbD 8, opcode := w.extractLsb' 0 8 }

/-- The command an OPCODE selects, with flag P (30_encoding.md R71). -/
def commandOf (opcode : BitVec 8) (p : Bool) : Option Instr :=
  if opcode = 0x01 then some .revo
  else if opcode = 0x02 then some .swpn
  else if opcode = 0x10 then some (.dec7 p)
  else if opcode = 0x11 then some (.enc7 p)
  else if opcode = 0x20 then some .decdate
  else if opcode = 0x21 then some .encdate
  else if opcode = 0x30 then some .decnum
  else if opcode = 0x31 then some .encnum
  else if opcode = 0x40 then some .dectoa
  else if opcode = 0x41 then some .enctoa
  else none

/-- R72's classification of the fields, its checks in its order. -/
def decodeFields (f : CommandFields) : Decoded :=
  match commandOf f.opcode f.p with
  | none => .illegal .unknownOpcode
  | some i =>
    if f.rsv ≠ 0 then .illegal .reservedBits
    else if f.p = true ∧ ¬ (f.opcode = 0x10 ∨ f.opcode = 0x11) then .illegal .flagNotAllowed
    else .command i

/-- Command decode (30_encoding.md R72). -/
def decode (w : Word) : Decoded := decodeFields (fieldsOf w)

/-- The OPCODE of a command (30_encoding.md R71). -/
def opcodeOf : Instr → BitVec 8
  | .revo => 0x01
  | .swpn => 0x02
  | .dec7 _ => 0x10
  | .enc7 _ => 0x11
  | .decdate => 0x20
  | .encdate => 0x21
  | .decnum => 0x30
  | .encnum => 0x31
  | .dectoa => 0x40
  | .enctoa => 0x41

/-- The P bit a command is written with (30_encoding.md R75). -/
def flagOf : Instr → Bool
  | .dec7 strip => strip
  | .enc7 pad => pad
  | .revo => false
  | .swpn => false
  | .decdate => false
  | .encdate => false
  | .decnum => false
  | .encnum => false
  | .dectoa => false
  | .enctoa => false

/-- The encoded word `zext_32((P : OPCODE))` (30_encoding.md R75). -/
def encode (i : Instr) : Word := ((BitVec.ofBool (flagOf i)) ++ opcodeOf i).setWidth 32

/-- A command is well-formed when the fields it is written with are. Every command is: a command word has no operand field that
could be out of range (30_encoding.md R74). -/
def Instr.wellFormed (i : Instr) : Bool := (fieldsOf (encode i)).wellFormed

/-- The instruction the decoder reads from an opcode-table word. The table numbers the bits as R70 does, and a command word
has no further words. A number that does not fit the 32 bits of CMD is no command word. -/
def decodeTableWord (nbits w : Nat) : Option Instr :=
  if w % 2 ^ nbits < 2 ^ 32 then
    match decode (BitVec.ofNat 32 (w % 2 ^ nbits)) with
    | .command i => some i
    | .illegal _ => none
  else none

end Sys2Proof
end

