-- ==== Sys2Proof/Machine/Rom.lean ====
section
/-!
DEFINITION. The default contents of the ROM tables (10_state.md R30, R31, R33, R34) and of the capacities (00_scope.md R7).
The tables' contents are the spec's own, from general knowledge except where its scenarios show them (log 8).
-/

namespace Sys2Proof

/-- Rows of numbers as a character table. -/
def tableOfRows (rows : List (Nat × Nat)) : CharTable :=
  rows.map fun r => (BitVec.ofNat 7 r.1, Char.ofNat r.2)

/-- R30, indices 0x00 to 0x1F: index and code point. Index 0x1B, the escape, has no row. -/
def stdRows0 : List (Nat × Nat) :=
  [(0x00, 0x0040), (0x01, 0x00A3), (0x02, 0x0024), (0x03, 0x00A5), (0x04, 0x00E8), (0x05, 0x00E9),
   (0x06, 0x00F9), (0x07, 0x00EC), (0x08, 0x00F2), (0x09, 0x00C7), (0x0A, 0x000A), (0x0B, 0x00D8),
   (0x0C, 0x00F8), (0x0D, 0x000D), (0x0E, 0x00C5), (0x0F, 0x00E5), (0x10, 0x0394), (0x11, 0x005F),
   (0x12, 0x03A6), (0x13, 0x0393), (0x14, 0x039B), (0x15, 0x03A9), (0x16, 0x03A0), (0x17, 0x03A8),
   (0x18, 0x03A3), (0x19, 0x0398), (0x1A, 0x039E), (0x1C, 0x00C6), (0x1D, 0x00E6), (0x1E, 0x00DF),
   (0x1F, 0x00C9)]

/-- R30, indices 0x20 to 0x3F: index and code point. -/
def stdRows1 : List (Nat × Nat) :=
  [(0x20, 0x0020), (0x21, 0x0021), (0x22, 0x0022), (0x23, 0x0023), (0x24, 0x00A4), (0x25, 0x0025),
   (0x26, 0x0026), (0x27, 0x0027), (0x28, 0x0028), (0x29, 0x0029), (0x2A, 0x002A), (0x2B, 0x002B),
   (0x2C, 0x002C), (0x2D, 0x002D), (0x2E, 0x002E), (0x2F, 0x002F), (0x30, 0x0030), (0x31, 0x0031),
   (0x32, 0x0032), (0x33, 0x0033), (0x34, 0x0034), (0x35, 0x0035), (0x36, 0x0036), (0x37, 0x0037),
   (0x38, 0x0038), (0x39, 0x0039), (0x3A, 0x003A), (0x3B, 0x003B), (0x3C, 0x003C), (0x3D, 0x003D),
   (0x3E, 0x003E), (0x3F, 0x003F)]

/-- R30, indices 0x40 to 0x5F: index and code point. -/
def stdRows2 : List (Nat × Nat) :=
  [(0x40, 0x00A1), (0x41, 0x0041), (0x42, 0x0042), (0x43, 0x0043), (0x44, 0x0044), (0x45, 0x0045),
   (0x46, 0x0046), (0x47, 0x0047), (0x48, 0x0048), (0x49, 0x0049), (0x4A, 0x004A), (0x4B, 0x004B),
   (0x4C, 0x004C), (0x4D, 0x004D), (0x4E, 0x004E), (0x4F, 0x004F), (0x50, 0x0050), (0x51, 0x0051),
   (0x52, 0x0052), (0x53, 0x0053), (0x54, 0x0054), (0x55, 0x0055), (0x56, 0x0056), (0x57, 0x0057),
   (0x58, 0x0058), (0x59, 0x0059), (0x5A, 0x005A), (0x5B, 0x00C4), (0x5C, 0x00D6), (0x5D, 0x00D1),
   (0x5E, 0x00DC), (0x5F, 0x00A7)]

/-- R30, indices 0x60 to 0x7F: index and code point. -/
def stdRows3 : List (Nat × Nat) :=
  [(0x60, 0x00BF), (0x61, 0x0061), (0x62, 0x0062), (0x63, 0x0063), (0x64, 0x0064), (0x65, 0x0065),
   (0x66, 0x0066), (0x67, 0x0067), (0x68, 0x0068), (0x69, 0x0069), (0x6A, 0x006A), (0x6B, 0x006B),
   (0x6C, 0x006C), (0x6D, 0x006D), (0x6E, 0x006E), (0x6F, 0x006F), (0x70, 0x0070), (0x71, 0x0071),
   (0x72, 0x0072), (0x73, 0x0073), (0x74, 0x0074), (0x75, 0x0075), (0x76, 0x0076), (0x77, 0x0077),
   (0x78, 0x0078), (0x79, 0x0079), (0x7A, 0x007A), (0x7B, 0x00E4), (0x7C, 0x00F6), (0x7D, 0x00F1),
   (0x7E, 0x00FC), (0x7F, 0x00E0)]

/-- R31: index and code point of the mapped extension entries. -/
def extRows : List (Nat × Nat) :=
  [(0x0A, 0x000C), (0x14, 0x005E), (0x28, 0x007B), (0x29, 0x007D), (0x2F, 0x005C), (0x3C, 0x005B),
   (0x3D, 0x007E), (0x3E, 0x005D), (0x40, 0x007C), (0x65, 0x20AC)]

/-- Default NPI_DEFINED with its names (R34). -/
def defaultNpiNames : List (Nibble × NpiName) :=
  [(0b0000, .unknown), (0b0001, .isdn), (0b0011, .data), (0b0100, .telex), (0b0101, .serviceCentreSpecific1),
   (0b0110, .serviceCentreSpecific2), (0b1000, .national), (0b1001, .privatePlan), (0b1010, .ermes),
   (0b1111, .reservedForExtension)]

/-- TON names (R33). -/
def defaultTonNames : List (BitVec 3 × TonName) :=
  [(0b000, .unknown), (0b001, .international), (0b010, .national), (0b011, .networkSpecific), (0b100, .subscriber),
   (0b101, .alphanumeric), (0b110, .abbreviated), (0b111, .reservedForExtension)]

/-- The default parameters (00_scope.md R7). -/
def defaultConfig : Config :=
  { gsm7Std := tableOfRows (stdRows0 ++ stdRows1 ++ stdRows2 ++ stdRows3)
    gsm7Ext := tableOfRows extRows
    npiDefined := defaultNpiNames.map Prod.fst
    tonNames := defaultTonNames
    npiNames := defaultNpiNames
    maxHex := none
    maxText := none }

/-- `GSM7_STD[i]` (10_state.md R30). A table that R29 rules out may lack the row: the value is then free (log 9). -/
def Config.stdChar (c : Config) (i : Septet) : Char :=
  match c.gsm7Std.find? fun r => r.1 == i with
  | some r => r.2
  | none => Config.freeStdChar i

/-- `GSM7_EXT[i]`, `none` for UNMAPPED (10_state.md R31). -/
def Config.extChar (c : Config) (i : Septet) : Option Char :=
  (c.gsm7Ext.find? fun r => r.1 == i).map Prod.snd

/-- `stdIndex(ch)`, `none` when `ch` is not in STD_CHARS: the escape's row, should a table have one, does not count
(10_state.md R32). DEDUCED (log 15): U+001B is in neither set under any table, also one that maps an index to it. -/
def Config.stdIndex (c : Config) (ch : Char) : Option Septet :=
  if ch = escChar then none else (c.gsm7Std.find? fun r => r.2 == ch && r.1 != escIndex).map Prod.fst

/-- `extIndex(ch)`, `none` when `ch` is not in EXT_CHARS (10_state.md R32). DEDUCED (log 15): U+001B is in neither set under any
table, also one that maps an index to it. -/
def Config.extIndex (c : Config) (ch : Char) : Option Septet :=
  if ch = escChar then none else (c.gsm7Ext.find? fun r => r.2 == ch).map Prod.fst

/-- `PAD_IDX = stdIndex(PAD_CP)` (41_gsm7.md, constants; D35). -/
def Config.padIndex (c : Config) : Septet := (c.stdIndex padChar).getD Config.freePadIndex

/-- EXT_DEFAULT, the space (41_gsm7.md, constants; 10_state.md R31). -/
def extDefault : Char := Char.ofNat 0x20

/-- `npi in NPI_DEFINED` for an 8-bit field; no value above 15 is in it (44_toa.md R212). -/
def Config.npiIsDefined (c : Config) (npi : BitVec 8) : Bool :=
  c.npiDefined.any fun n => n.toNat == npi.toNat

/-- `len > MAX` for a capacity, `none` being unbounded (00_scope.md R7, D8). -/
def overCapacity (cap : Option Nat) (len : Nat) : Bool :=
  match cap with
  | none => false
  | some m => m < len

/-- The name of a TON code (10_state.md R33, 44_toa.md R211): the reader's map, used by no command. -/
def Config.tonName (c : Config) (code : BitVec 3) : Option TonName :=
  (c.tonNames.find? fun r => r.1 == code).map Prod.snd

/-- The name of an NPI code (10_state.md R34, 44_toa.md R211): the reader's map, used by no command. -/
def Config.npiName (c : Config) (code : Nibble) : Option NpiName :=
  (c.npiNames.find? fun r => r.1 == code).map Prod.snd

end Sys2Proof
end

