-- ==== Sys2Proof/Machine/State.lean ====
section
/-!
DEFINITION. The state of the block (10_state.md R22, R23, R36) with the outside world's part of a run, the reasons a step can
stop, and the state after reset.
-/

namespace Sys2Proof.Machine

/-- Why the machine stops. -/
inductive Fault where
  /-- A host write of CMD, IN_HEX, IN_TEXT or IN_REC while STATUS is BUSY, raised by the host's port
  (60_exceptions.md R242, 70_reset_and_hazards.md R265, D11). Safe: the spec gives the run no further meaning. -/
  | hostHazard
deriving DecidableEq, Repr

/-- Why a step has no meaning. -/
inductive Refusal where
  /-- An instruction that has no meaning yet. No arm of this model answers it. Safe. -/
  | notModelled (mnemonic : String)
deriving DecidableEq, Repr

/-- The state. The first nine fields are the registers and buffers of 10_state.md R22, `config` the ROM and the capacities
(R28, R36; 00_scope.md R7). The last four are the model's own (log 2, 3). -/
structure State where
  /-- CMD, the last word the host wrote (R22). -/
  cmd : Word
  /-- STATUS (R25): 0 IDLE, 1 BUSY, 2 DONE, 3 ERROR. -/
  status : BitVec 2
  /-- ERRCODE (R26). -/
  errcode : BitVec 3
  /-- IN_HEX. -/
  inHex : HexString
  /-- IN_TEXT. -/
  inText : Text
  /-- IN_REC. -/
  inRec : Rec
  /-- OUT_HEX. -/
  outHex : HexString
  /-- OUT_TEXT. -/
  outText : Text
  /-- OUT_REC. -/
  outRec : Rec
  /-- The ROM tables (R28 to R34) and the capacities (00_scope.md R7). -/
  config : Config
  /-- The outside world's remaining actions, the next one first (30_encoding.md R76). -/
  host : List HostAction
  /-- The values the host has read, oldest first (70_reset_and_hazards.md R263). -/
  log : List Observation
  /-- How many more host turns the running command stays BUSY (R262: "a finite, unspecified delay"). -/
  delay : Nat
  /-- How many commands have started; the free delay is read at it. -/
  issued : Nat
deriving DecidableEq, Repr

/-- The state right after reset (10_state.md R36, 70_reset_and_hazards.md R260), with the default parameters (00_scope.md R7)
and nothing for the host to do. -/
def State.reset : State :=
  { cmd := 0x00000000
    status := 0
    errcode := 0
    inHex := []
    inText := []
    inRec := Rec.zero
    outHex := []
    outText := []
    outRec := Rec.zero
    config := defaultConfig
    host := []
    log := []
    delay := 0
    issued := 0 }

end Sys2Proof.Machine
end

