-- ==== Sys2Proof/Machine/Flags.lean ====
section
/-!
DEFINITION. The status codes. The block has no condition codes and no flag set as a side effect (10_state.md R27): its one flag
is CMD.P, which the decoder hands to DEC7 and ENC7 (30_encoding.md R72, R74). What a command leaves behind as its completion
status is STATUS (10_state.md R25) and ERRCODE (R26).
-/

namespace Sys2Proof.Machine

/-- STATUS = IDLE: no command has run since reset (10_state.md R25). -/
def statusIdle : BitVec 2 := 0

/-- STATUS = BUSY: a command is executing (R25). -/
def statusBusy : BitVec 2 := 1

/-- STATUS = DONE: the last command ended with Ok (R25). -/
def statusDone : BitVec 2 := 2

/-- STATUS = ERROR: the last command ended with an error (R25). -/
def statusError : BitVec 2 := 3

/-- The error kinds (60_exceptions.md R231 to R234). -/
inductive ErrKind where
  | validation
  | encoding
  | malformed
  | illegalCommand
deriving DecidableEq, Repr

/-- ERRCODE = NONE (10_state.md R26). -/
def errNone : BitVec 3 := 0

/-- The code ERRCODE holds for an error kind (10_state.md R26). -/
def errCode : ErrKind → BitVec 3
  | .validation => 1
  | .encoding => 2
  | .malformed => 3
  | .illegalCommand => 4

/-- STATUS is BUSY. -/
def State.isBusy (s : State) : Bool := s.status == statusBusy

end Sys2Proof.Machine
end

