-- ==== Sys2Proof/Machine/Operands.lean ====
section
/-!
DEFINITION. Operand forms: the hex primitives every command uses (00_scope.md R11, 40_nibble_octet.md R100 to R103), the
semi-octet view (20_memory.md R53) and the septet view (20_memory.md R52, R56; 41_gsm7.md R121, R125; 30_encoding.md R77).
-/

namespace Sys2Proof.Machine

/-- The sixteen hex digits in the order of their values (00_scope.md R11). -/
def hexDigits : List Char :=
  ['0', '1', '2', '3', '4', '5', '6', '7', '8', '9', 'A', 'B', 'C', 'D', 'E', 'F']

/-- `isHex(c)`: an uppercase hex digit (40_nibble_octet.md R100, D7). -/
def isHex (c : Char) : Bool := hexDigits.contains c

/-- `hexval(c)` of a hex digit (00_scope.md R11). -/
def hexVal (c : Char) : Nat := hexDigits.idxOf c

/-- `hexchar(v)` (00_scope.md R11). -/
def hexChar (v : Nibble) : Char := hexDigits.getD v.toNat '0'

/-- `isHex` of a decimal digit only (42_date.md R160). -/
def isDecimal (c : Char) : Bool := isHex c && hexVal c < 10

/-- `checkHex(h, true)` (40_nibble_octet.md R101, 20_memory.md R55): a character that is no hex digit, or an odd length, is
malformed. -/
def checkHex (h : HexString) : Except ErrKind Unit :=
  if h.all isHex = false then .error .malformed
  else if h.length % 2 = 1 then .error .malformed
  else .ok ()

/-- A result of `len` elements beyond its buffer's capacity is malformed (92_eei_decisions.md D8). -/
def checkCapacity (cap : Option Nat) (len : Nat) : Except ErrKind Unit :=
  if overCapacity cap len then .error .malformed else .ok ()

/-- The octet of two hex digits, high nibble first (20_memory.md R51). -/
def octetOf (hi lo : Char) : Octet := BitVec.ofNat 8 (16 * hexVal hi + hexVal lo)

/-- `octets(h)` (40_nibble_octet.md R102). -/
def octets : HexString → List Octet
  | hi :: lo :: rest => octetOf hi lo :: octets rest
  | _ => []

/-- An octet as two uppercase hex digits, high nibble first (00_scope.md R11). -/
def hexOctet (o : Octet) : HexString := [hexChar (o.extractLsb' 4 4), hexChar (o.extractLsb' 0 4)]

/-- `hex(o)` (40_nibble_octet.md R103). -/
def hexOf : List Octet → HexString
  | [] => []
  | o :: rest => hexOctet o ++ hexOf rest

/-- `swap(h)`: the two digits of every pair change places (40_nibble_octet.md R105). It is the semi-octet reading of
20_memory.md R53. -/
def swapNibbles : HexString → HexString
  | a :: b :: rest => b :: a :: swapNibbles rest
  | _ => []

/-- The pairs of digits in reversed order (40_nibble_octet.md R104). -/
def reverseOctets : HexString → HexString
  | a :: b :: rest => reverseOctets rest ++ [a, b]
  | _ => []

/-- `V = sum_j o[j] * 2^(8j)`: the octets as one number, octet 0 least significant (20_memory.md R52). -/
def octetsValue : List Octet → Nat
  | [] => 0
  | o :: rest => o.toNat + 2 ^ 8 * octetsValue rest

/-- `V = sum_i s[i] * 2^(7i)`: the septets as one number, septet 0 least significant (41_gsm7.md R125). -/
def septetsValue : List Septet → Nat
  | [] => 0
  | i :: rest => i.toNat + 2 ^ 7 * septetsValue rest

/-- `unpack(o)` (41_gsm7.md R121): `m = (8n) div 7` septets, septet i being `V[7i+6 : 7i]`; the top bits are in no septet
(R122). -/
def unpack (o : List Octet) : List Septet :=
  (List.range (8 * o.length / 7)).map fun i => BitVec.ofNat 7 (octetsValue o / 2 ^ (7 * i))

/-- `pack(idx)` (41_gsm7.md R125, 30_encoding.md R77): `n = ceil(7m/8)` octets, octet j being `V[8j+7 : 8j]`. -/
def pack (idx : List Septet) : List Octet :=
  (List.range ((7 * idx.length + 7) / 8)).map fun j => BitVec.ofNat 8 (septetsValue idx / 2 ^ (8 * j))

/-- `dec2(v)` for 0 <= v <= 99: two decimal digits, tens first (42_date.md R170). -/
def dec2 (v : Nat) : HexString := [hexChar (BitVec.ofNat 4 (v / 10)), hexChar (BitVec.ofNat 4 (v % 10))]

/-- `bcd2(c1, c2)` (42_date.md R160, D17). -/
def bcd2 (c1 c2 : Char) : Except ErrKind Nat :=
  if isDecimal c1 && isDecimal c2 then .ok (10 * hexVal c1 + hexVal c2) else .error .malformed

end Sys2Proof.Machine
end

