-- ==== Sys2Proof/Machine/Ops.lean ====
section
/-!
DEFINITION. The named operations on the registers: a command's start, its completion with a result, its completion with an
error (the block's only exceptional event, 60_exceptions.md R230), and the unit's clock. There is no memory to operate on
(20_memory.md R50).
-/

namespace Sys2Proof.Machine

/-- `OUT_HEX <- []; OUT_TEXT <- []; OUT_REC <- all fields 0` (10_state.md R24). -/
def State.clearResults (s : State) : State :=
  { s with outHex := [], outText := [], outRec := Rec.zero }

/-- The registers of a command's start (70_reset_and_hazards.md R262, first half): CMD takes the word, STATUS is BUSY, ERRCODE
is NONE and the result buffers are cleared. The unit will end the command after `d` more host turns. -/
def State.startWith (s : State) (w : Word) (d : Nat) : State :=
  { s.clearResults with cmd := w, status := statusBusy, errcode := errNone, delay := d }

/-- A host write of `w` to CMD while STATUS is not BUSY: the start of R262, its delay a free value (log 2). -/
def State.beginCommand (s : State) (w : Word) : State :=
  { s.startWith w (Config.freeBusyDelay s.issued) with issued := s.issued + 1 }

/-- Error completion (60_exceptions.md R230): STATUS <- ERROR and ERRCODE <- the code; everything else is kept, the result
buffers as the command's start cleared them. There is no handler, no saved state and no return (R238). -/
def State.raise (s : State) (k : ErrKind) : State :=
  { s with status := statusError, errcode := errCode k }

/-- Ok completion of a command whose result goes to OUT_HEX (10_state.md R24, 70_reset_and_hazards.md R262), or its error. -/
def State.finishHex (s : State) : Except ErrKind HexString → State
  | .ok v => { s with outHex := v, status := statusDone }
  | .error k => s.raise k

/-- Ok completion of a command whose result goes to OUT_TEXT (R24, R262), or its error. -/
def State.finishText (s : State) : Except ErrKind Text → State
  | .ok v => { s with outText := v, status := statusDone }
  | .error k => s.raise k

/-- Ok completion of a command whose result goes to OUT_REC (R24, R262), or its error. -/
def State.finishRec (s : State) : Except ErrKind Rec → State
  | .ok v => { s with outRec := v, status := statusDone }
  | .error k => s.raise k

/-- One host turn of a running command's delay passes. Nothing else in the unit depends on time (70_reset_and_hazards.md
R266). -/
def State.tick (s : State) : State :=
  if s.isBusy then { s with delay := s.delay - 1 } else s

end Sys2Proof.Machine
end

