-- ==== Sys2Proof/Machine/Calendar.lean ====
section
/-!
DEFINITION. The calendar arithmetic of the date codec (42_date.md R161, R162): the proleptic Gregorian calendar, seconds counted
from 2000-01-01T00:00:00, and the way back.
-/

namespace Sys2Proof.Machine

/-- A calendar time (42_date.md R162): any year, before 2000 and after 2099 too. -/
structure CivilTime where
  year : Int
  month : Nat
  day : Nat
  hour : Nat
  minute : Nat
  second : Nat
deriving DecidableEq, Repr

/-- `leap(Y)` (42_date.md R161). -/
def leap (y : Int) : Bool := (y % 4 = 0 ∧ y % 100 ≠ 0) ∨ y % 400 = 0

/-- `dim(Y, M)`, days in a month; 0 for a number that is no month (42_date.md R161). -/
def dim (y : Int) (m : Nat) : Nat :=
  if m = 1 ∨ m = 3 ∨ m = 5 ∨ m = 7 ∨ m = 8 ∨ m = 10 ∨ m = 12 then 31
  else if m = 4 ∨ m = 6 ∨ m = 9 ∨ m = 11 then 30
  else if m = 2 then (if leap y then 29 else 28)
  else 0

/-- `validLocal` (42_date.md R161, D18). -/
def validLocal (t : CivilTime) : Bool :=
  1 ≤ t.month ∧ t.month ≤ 12 ∧ 1 ≤ t.day ∧ t.day ≤ dim t.year t.month ∧ t.hour ≤ 23 ∧ t.minute ≤ 59 ∧ t.second ≤ 59

/-- Days in a year (42_date.md R162). -/
def yearDays (y : Int) : Nat := if leap y then 366 else 365

/-- Days in the `n` years from 2000 on. -/
def daysUp : Nat → Nat
  | 0 => 0
  | n + 1 => daysUp n + yearDays (2000 + n)

/-- Days in the `n` years before 2000. -/
def daysDown : Nat → Nat
  | 0 => 0
  | n + 1 => daysDown n + yearDays (1999 - n)

/-- Signed days from 2000-01-01 to the first day of a year (42_date.md R162). -/
def daysToYear (y : Int) : Int :=
  if 2000 ≤ y then daysUp (y - 2000).toNat else - (daysDown (2000 - y).toNat : Int)

/-- Days in the first `m` months of a year. -/
def daysToMonth (y : Int) : Nat → Nat
  | 0 => 0
  | m + 1 => daysToMonth y m + dim y (m + 1)

/-- `secs(Y, M, D, h, mi, s)` (42_date.md R162). -/
def secs (t : CivilTime) : Int :=
  86400 * (daysToYear t.year + daysToMonth t.year (t.month - 1) + ((t.day : Int) - 1))
    + 3600 * t.hour + 60 * t.minute + t.second

/-- The year that holds day `n` counted from the first day of year `y` on, and the day of that year; `fuel` bounds the years
passed. -/
def yearUp : Nat → Int → Nat → Int × Nat
  | 0, y, n => (y, n)
  | fuel + 1, y, n => if n < yearDays y then (y, n) else yearUp fuel (y + 1) (n - yearDays y)

/-- The year that holds the day `n` days before the first day of year `y` (`n` at least 1), and the day of that year. -/
def yearDown : Nat → Int → Nat → Int × Nat
  | 0, y, n => (y, n)
  | fuel + 1, y, n =>
    if n ≤ yearDays (y - 1) then (y - 1, yearDays (y - 1) - n) else yearDown fuel (y - 1) (n - yearDays (y - 1))

/-- The year of a day counted from 2000-01-01 and the day of that year, from 0. -/
def yearOfDay (d : Int) : Int × Nat :=
  if 0 ≤ d then yearUp (d.toNat + 1) 2000 d.toNat else yearDown ((-d).toNat + 1) 2000 (-d).toNat

/-- The month that holds day `n` of the months from `m` on, and the day of that month, both from 1; `fuel` bounds the months
passed. -/
def monthOfDay (y : Int) : Nat → Nat → Nat → Nat × Nat
  | 0, m, n => (m, n + 1)
  | fuel + 1, m, n => if n < dim y m then (m, n + 1) else monthOfDay y fuel (m + 1) (n - dim y m)

/-- `civil(T)`, the inverse of `secs` (42_date.md R162). -/
def civil (t : Int) : CivilTime :=
  let (y, n) := yearOfDay (t / 86400)
  let (m, d) := monthOfDay y 11 1 n
  let r := (t % 86400).toNat
  { year := y, month := m, day := d, hour := r / 3600, minute := r % 3600 / 60, second := r % 60 }

end Sys2Proof.Machine
end

