-- ==== Sys2Proof/Machine/Date.lean ====
section
/-!
DEFINITION. The date codec: DECDATE and ENCDATE (42_date.md; 30_encoding.md R78). The timezone magnitude is binary, not BCD
(90_conflicts.md C9).
-/

namespace Sys2Proof.Machine

/-- `tzDecode(TZ)`: the signed magnitude in quarter-hours (42_date.md R163). -/
def tzDecode (tz : Octet) : Int :=
  let q : Int := ((tz.extractLsb' 0 7).toNat : Int)
  if tz.getLsbD 7 then -q else q

/-- `tzEncode(off)` for -127..127 (42_date.md R164). -/
def tzEncode (off : Int) : Octet :=
  if 0 ≤ off then BitVec.ofNat 8 off.toNat else 0x80 + BitVec.ofNat 8 (-off).toNat

/-- The record DECDATE writes for a UTC calendar time: offset 0, present (42_date.md R165, D20). -/
def utcRecord (t : CivilTime) : Rec :=
  { year := BitVec.ofInt 16 t.year
    month := BitVec.ofNat 8 t.month
    day := BitVec.ofNat 8 t.day
    hour := BitVec.ofNat 8 t.hour
    minute := BitVec.ofNat 8 t.minute
    second := BitVec.ofNat 8 t.second
    tzPresent := 1 }

/-- The calendar time of a record's date fields (10_state.md R23). -/
def recordTime (r : Rec) : CivilTime :=
  { year := r.year.toNat, month := r.month.toNat, day := r.day.toNat, hour := r.hour.toNat, minute := r.minute.toNat
    second := r.second.toNat }

/-- The offset a record carries: 0 when it carries none (42_date.md R170). -/
def recordOffset (r : Rec) : Int := if r.tzPresent = 1 then r.tzQuarters.toInt else 0

/-- DECDATE's function (42_date.md R165, 30_encoding.md R78): the length check, the six BCD fields in order, the calendar check,
then the move to UTC. -/
def decdate (h : HexString) : Except ErrKind Rec := do
  checkHex h
  match swapNibbles h with
  | [y1, y0, mo1, mo0, d1, d0, h1, h0, mi1, mi0, s1, s0, z1, z0] => do
    let year ← bcd2 y1 y0
    let month ← bcd2 mo1 mo0
    let day ← bcd2 d1 d0
    let hour ← bcd2 h1 h0
    let minute ← bcd2 mi1 mi0
    let second ← bcd2 s1 s0
    let t : CivilTime := { year := 2000 + year, month, day, hour, minute, second }
    if validLocal t = false then .error .validation
    return utcRecord (civil (secs t - 900 * tzDecode (octetOf z1 z0)))
  | _ => .error .malformed

/-- ENCDATE's function (42_date.md R170): the year range, the calendar check, the offset check, then the fourteen digits. The
local fields are written unchanged (D22). A MAX_HEX below 14 makes the result malformed by D8: DEDUCED, the rule's own text has no
such check (log 11). -/
def encdate (c : Config) (r : Rec) : Except ErrKind HexString := do
  if r.year.toNat < 2000 ∨ 2099 < r.year.toNat then .error .validation
  if validLocal (recordTime r) = false then .error .validation
  if r.tzPresent = 1 ∧ r.tzQuarters.toInt = -128 then .error .validation
  checkCapacity c.maxHex 14
  return swapNibbles
    (dec2 (r.year.toNat - 2000) ++ dec2 r.month.toNat ++ dec2 r.day.toNat ++ dec2 r.hour.toNat ++ dec2 r.minute.toNat
      ++ dec2 r.second.toNat ++ hexOctet (tzEncode (recordOffset r)))

/-- DECDATE: IN_HEX to OUT_REC (R165). -/
def execDecdate (s : State) : Host.Outcome State Fault Refusal := .next (s.finishRec (decdate s.inHex))

/-- ENCDATE: IN_REC's date fields to OUT_HEX (R170). -/
def execEncdate (s : State) : Host.Outcome State Fault Refusal := .next (s.finishHex (encdate s.config s.inRec))

end Sys2Proof.Machine
end

