-- ==== Sys2Proof/Machine/Gsm7.lean ====
section
/-!
DEFINITION. The GSM 7-bit codec: DEC7 and ENC7 (41_gsm7.md). The padding rules count septets and indices, escapes included
(90_conflicts.md C1, C2).
-/

namespace Sys2Proof.Machine

/-- `mapSeptets(s)` with the escape latch `esc` (41_gsm7.md R123). A latch still set at the end emits nothing (D14). -/
def mapSeptets (c : Config) (esc : Bool) : List Septet → Text
  | [] => []
  | i :: rest =>
    if esc then (c.extChar i).getD extDefault :: mapSeptets c false rest
    else if i = escIndex then mapSeptets c true rest
    else c.stdChar i :: mapSeptets c false rest

/-- `stripPad(t, m)`, m the septet count (41_gsm7.md R124). -/
def stripPad (t : Text) (m : Nat) : Text :=
  if m % 8 = 0 ∧ t.getLast? = some padChar then t.dropLast else t

/-- DEC7's function (41_gsm7.md R120). -/
def dec7 (c : Config) (strip : Bool) (h : HexString) : Except ErrKind Text := do
  checkHex h
  let s := unpack (octets h)
  let t := mapSeptets c false s
  let t := if strip then stripPad t s.length else t
  checkCapacity c.maxText t.length
  return t

/-- The indices of one character: its standard index, else the escape and its extension index, else none (41_gsm7.md R127).
U+001B has none under any table (R126, D15; log 15). -/
def charIndices (c : Config) (ch : Char) : Option (List Septet) :=
  match c.stdIndex ch with
  | some i => some [i]
  | none =>
    match c.extIndex ch with
    | some i => some [escIndex, i]
    | none => none

/-- `indices(t)` (41_gsm7.md R127): in text order, stopping at the first character in neither table (D16). -/
def indices (c : Config) : Text → Except ErrKind (List Septet)
  | [] => .ok []
  | ch :: rest =>
    match charIndices c ch with
    | none => .error .encoding
    | some i =>
      match indices c rest with
      | .ok idx => .ok (i ++ idx)
      | .error k => .error k

/-- `addPad(idx, t)` (41_gsm7.md R128), its two conditions in its order. -/
def addPad (c : Config) (idx : List Septet) (t : Text) : List Septet :=
  let idx := if idx.length % 8 = 0 ∧ t.getLast? = some padChar then idx ++ [c.padIndex] else idx
  if idx.length % 8 = 7 then idx ++ [c.padIndex] else idx

/-- ENC7's function (41_gsm7.md R126). -/
def enc7 (c : Config) (pad : Bool) (t : Text) : Except ErrKind HexString := do
  let idx ← indices c t
  let idx := if pad then addPad c idx t else idx
  let o := pack idx
  checkCapacity c.maxHex (2 * o.length)
  return hexOf o

/-- DEC7: IN_HEX and P to OUT_TEXT (R120). -/
def execDec7 (strip : Bool) (s : State) : Host.Outcome State Fault Refusal :=
  .next (s.finishText (dec7 s.config strip s.inHex))

/-- ENC7: IN_TEXT and P to OUT_HEX (R126). -/
def execEnc7 (pad : Bool) (s : State) : Host.Outcome State Fault Refusal :=
  .next (s.finishHex (enc7 s.config pad s.inText))

end Sys2Proof.Machine
end

