-- ==== Sys2Proof/Machine/Nibble.lean ====
section
/-!
DEFINITION. The nibble and octet utilities: REVO and SWPN (40_nibble_octet.md R104, R105).
-/

namespace Sys2Proof.Machine

/-- REVO's function (40_nibble_octet.md R104). -/
def revo (h : HexString) : Except ErrKind HexString := do
  checkHex h
  return reverseOctets h

/-- SWPN's function (40_nibble_octet.md R105). -/
def swpn (h : HexString) : Except ErrKind HexString := do
  checkHex h
  return swapNibbles h

/-- REVO: IN_HEX to OUT_HEX (R104). -/
def execRevo (s : State) : Host.Outcome State Fault Refusal := .next (s.finishHex (revo s.inHex))

/-- SWPN: IN_HEX to OUT_HEX (R105). -/
def execSwpn (s : State) : Host.Outcome State Fault Refusal := .next (s.finishHex (swpn s.inHex))

end Sys2Proof.Machine
end

