-- ==== Sys2Proof/Machine/Number.lean ====
section
/-!
DEFINITION. The number codec: DECNUM and ENCNUM (43_number.md; 30_encoding.md R79).
-/

namespace Sys2Proof.Machine

/-- FILLER, the hex digit 'F' (00_scope.md R7). -/
def filler : Char := 'F'

/-- DECNUM's function (43_number.md R190, R191): one trailing filler is dropped, every other digit passes (D23). A
result beyond MAX_TEXT is malformed by D8: DEDUCED, the rule's own text has no such check (log 11). -/
def decnum (c : Config) (h : HexString) : Except ErrKind Text := do
  checkHex h
  let d := swapNibbles h
  let d := if d.getLast? = some filler then d.dropLast else d
  checkCapacity c.maxText d.length
  return d

/-- ENCNUM's function (43_number.md R192): the alphabet of hex digits (D24), a filler for an odd count. -/
def encnum (c : Config) (t : Text) : Except ErrKind HexString := do
  if t.all isHex = false then .error .malformed
  let t := if t.length % 2 = 1 then t ++ [filler] else t
  checkCapacity c.maxHex t.length
  return swapNibbles t

/-- DECNUM: IN_HEX to OUT_TEXT (R190). -/
def execDecnum (s : State) : Host.Outcome State Fault Refusal := .next (s.finishText (decnum s.config s.inHex))

/-- ENCNUM: IN_TEXT to OUT_HEX (R192). -/
def execEncnum (s : State) : Host.Outcome State Fault Refusal := .next (s.finishHex (encnum s.config s.inText))

end Sys2Proof.Machine
end

