-- ==== Sys2Proof/Machine/Toa.lean ====
section
/-!
DEFINITION. The Type-Of-Address codec: DECTOA and ENCTOA (44_toa.md; 30_encoding.md R80). The block reports codes, not names
(R211).
-/

namespace Sys2Proof.Machine

/-- The record DECTOA writes: TON and NPI, every other field 0 (44_toa.md R210). -/
def toaRecord (b : Octet) : Rec :=
  { ton := (b.extractLsb' 4 3).setWidth 8, npi := (b.extractLsb' 0 4).setWidth 8 }

/-- DECTOA's function (44_toa.md R210): the length, the fixed bit, then the NPI. -/
def dectoa (c : Config) (h : HexString) : Except ErrKind Rec := do
  checkHex h
  match octets h with
  | [b] =>
    if b.getLsbD 7 = false then .error .validation
    else if c.npiIsDefined ((b.extractLsb' 0 4).setWidth 8) = false then .error .validation
    else return toaRecord b
  | _ => .error .malformed

/-- ENCTOA's function (44_toa.md R212): the TON check, then the NPI check. A MAX_HEX below 2 makes the result malformed by D8:
DEDUCED, the rule's own text has no such check (log 11). -/
def enctoa (c : Config) (r : Rec) : Except ErrKind HexString := do
  if 7 < r.ton.toNat then .error .validation
  if c.npiIsDefined r.npi = false then .error .validation
  checkCapacity c.maxHex 2
  return hexOf [BitVec.ofNat 8 (0x80 + 16 * r.ton.toNat + r.npi.toNat)]

/-- DECTOA: IN_HEX to OUT_REC (R210). -/
def execDectoa (s : State) : Host.Outcome State Fault Refusal := .next (s.finishRec (dectoa s.config s.inHex))

/-- ENCTOA: IN_REC.ton and IN_REC.npi to OUT_HEX (R212). -/
def execEnctoa (s : State) : Host.Outcome State Fault Refusal := .next (s.finishHex (enctoa s.config s.inRec))

end Sys2Proof.Machine
end

