-- ==== Sys2Proof/Machine/Dispatch.lean ====
section
/-!
DEFINITION. One arm per command: its meaning (70_reset_and_hazards.md R262, Exec and the completion).
-/

namespace Sys2Proof.Machine

def exec (i : Instr) (s : State) : Host.Outcome State Fault Refusal :=
  match i with
  | .revo => Sys2Proof.Machine.execRevo s
  | .swpn => Sys2Proof.Machine.execSwpn s
  | .dec7 strip => Sys2Proof.Machine.execDec7 strip s
  | .enc7 pad => Sys2Proof.Machine.execEnc7 pad s
  | .decdate => Sys2Proof.Machine.execDecdate s
  | .encdate => Sys2Proof.Machine.execEncdate s
  | .decnum => Sys2Proof.Machine.execDecnum s
  | .encnum => Sys2Proof.Machine.execEncnum s
  | .dectoa => Sys2Proof.Machine.execDectoa s
  | .enctoa => Sys2Proof.Machine.execEnctoa s

end Sys2Proof.Machine
end

