-- ==== Sys2Proof/Machine/HostPort.lean ====
section
/-!
DEFINITION. The host's side of the registers (10_state.md R22; 30_encoding.md R76; 70_reset_and_hazards.md R260, R262, R264,
R265): what each host action does, and the reset event.
-/

namespace Sys2Proof.Machine

/-- A value the port of IN_TEXT accepts: a Unicode scalar value (10_state.md R22, D33). -/
def isScalar (v : Nat) : Bool := v < 0xD800 || (0xDFFF < v && v ≤ 0x10FFFF)

/-- `wr IN_HEX`: a write over MAX_HEX is refused at the port and the buffer keeps its contents (10_state.md R22, D8). -/
def State.writeHex (s : State) (chars : List Char) : State :=
  if overCapacity s.config.maxHex chars.length then s else { s with inHex := chars }

/-- `wr IN_TEXT`: a write over MAX_TEXT, or with a value that is no scalar, is refused at the port and the buffer keeps its
contents (10_state.md R22, D8, D33). -/
def State.writeText (s : State) (values : List Nat) : State :=
  if overCapacity s.config.maxText values.length || !values.all isScalar then s
  else { s with inText := values.map Char.ofNat }

/-- `wr IN_REC` (30_encoding.md R76). -/
def State.writeRec (s : State) (r : Rec) : State := { s with inRec := r }

/-- What a read of a register gives (10_state.md R22); it has no side effect in the unit (20_memory.md R57). -/
def State.readReg (s : State) : Reg → RegValue
  | .cmd => .word s.cmd
  | .status => .status s.status
  | .errcode => .errcode s.errcode
  | .inHex => .hex s.inHex
  | .inText => .text s.inText
  | .inRec => .record s.inRec
  | .outHex => .hex s.outHex
  | .outText => .text s.outText
  | .outRec => .record s.outRec

/-- `rd`: the host sees the register's value (70_reset_and_hazards.md R263). -/
def State.observe (s : State) (r : Reg) : State := { s with log := s.log ++ [⟨r, s.readReg r⟩] }

/-- The reset event (70_reset_and_hazards.md R260, 10_state.md R36): every register and buffer takes its reset value, a command
in progress is abandoned, the ROM and the capacities are unaffected. The host's own program and what it has read are not the
block's, and go on (log 12). -/
def State.hardReset (s : State) : State :=
  { State.reset with config := s.config, host := s.host, log := s.log, issued := s.issued }

/-- A host write: it is a hazard while STATUS is BUSY (70_reset_and_hazards.md R265, 60_exceptions.md R242), and otherwise has
its effect. -/
def hostWrite (s : State) (effect : State) : Host.Outcome State Fault Refusal :=
  if s.isBusy then .fault .hostHazard else .next effect

/-- One host action, `s` being the state with the action taken off the host's list. While BUSY, one host turn of the command's
delay passes with it. DESIGN CHOICE (log 13): the STATUS values a `wait` polls are not put in the log; only `rd` is. -/
def hostAct (a : HostAction) (s : State) : Host.Outcome State Fault Refusal :=
  match a with
  | .wrHex chars => hostWrite s (s.writeHex chars)
  | .wrText values => hostWrite s (s.writeText values)
  | .wrRec r => hostWrite s (s.writeRec r)
  | .cmd w => hostWrite s (s.beginCommand w)
  | .wait => .next (if s.isBusy then { s.tick with host := .wait :: s.host } else s)
  | .rd r => .next (s.observe r).tick
  | .reset => .next s.hardReset

/-- The host's turn: its next action, or nothing to do. A `wait` is polled again while STATUS is BUSY (30_encoding.md R76). -/
def hostTurn (s : State) : Host.Outcome State Fault Refusal :=
  match s.host with
  | [] => .next s.tick
  | a :: rest => hostAct a { s with host := rest }

end Sys2Proof.Machine
end

