-- ==== Sys2Proof/Machine/Unit.lean ====
section
/-!
DEFINITION. The unit's turn: a running command ends (70_reset_and_hazards.md R262, second half).
-/

namespace Sys2Proof.Machine

/-- The unit ends the command in CMD: an illegal word raises IllegalCommand before any operand is looked at (30_encoding.md
R72, 60_exceptions.md R234, R236), any other runs. -/
def unitTurn (s : State) : Host.Outcome State Fault Refusal :=
  match decode s.cmd with
  | .command i => exec i s
  | .illegal _ => .next (s.raise .illegalCommand)

/-- The unit moves when a command runs and its delay is over; otherwise it is the host's turn (log 1, 2). -/
def State.unitReady (s : State) : Bool := s.isBusy && s.delay == 0

end Sys2Proof.Machine
end

