-- ==== Sys2Proof/Machine/Step.lean ====
section
/-!
DEFINITION. One step of the system: the unit's turn or the host's (70_reset_and_hazards.md R262; log 1).
-/

namespace Sys2Proof.Machine

/-- One step. -/
def step (s : State) : Host.Outcome State Fault Refusal :=
  if s.unitReady then unitTurn s else hostTurn s

/-- `s` with a command word just written to CMD and the unit about to end it: what a host's `cmd` leaves (R262, its first
half), with no further delay. The block fetches nothing (10_state.md R21); this stands for the host's write (log 3). -/
def State.withFetchWord (s : State) (nbits w : Nat) : State :=
  s.startWith (BitVec.ofNat 32 (w % 2 ^ nbits)) 0

end Sys2Proof.Machine
end

