-- ==== Sys2Proof/Safety.lean ====
section
/-!
DEFINITION. What the claims are stated in: where a command's result goes (10_state.md R24), the observation of a run and its end
(70_reset_and_hazards.md R263), the invariant of every run, and the host protocol (R264, R265).
-/

namespace Sys2Proof.Machine

/-- The three result buffers. -/
inductive ResultBuffer where
  | hex | text | record
deriving DecidableEq, Repr

/-- The buffer a command's result goes to (10_state.md R24). -/
def resultBuffer : Instr → ResultBuffer
  | .revo => .hex
  | .swpn => .hex
  | .dec7 _ => .text
  | .enc7 _ => .hex
  | .decdate => .record
  | .encdate => .hex
  | .decnum => .text
  | .encnum => .hex
  | .dectoa => .record
  | .enctoa => .hex

/-- Every result buffer holds its cleared value (10_state.md R24). -/
def State.ResultsCleared (s : State) : Prop := s.outHex = [] ∧ s.outText = [] ∧ s.outRec = Rec.zero

/-- What a buffer's capacity allows (00_scope.md R7). -/
def Fits (cap : Option Nat) (len : Nat) : Prop := ∀ m, cap = some m → len ≤ m

/-- What holds of every state a run passes through. -/
structure Inv (s : State) : Prop where
  /-- The tables meet 10_state.md R29. -/
  rom : s.config.wellFormed = true
  /-- ERRCODE is 0 unless STATUS is ERROR, and then one of 1 to 4 (R26). -/
  errcode : if s.status = statusError then 1 ≤ s.errcode.toNat ∧ s.errcode.toNat ≤ 4 else s.errcode = errNone
  /-- IDLE: no command has run since reset, so CMD holds its reset value (R25, R36). -/
  idle : s.status = statusIdle → s.cmd = 0
  /-- Only a command that ended with Ok leaves a result (R24). -/
  cleared : s.status ≠ statusDone → s.ResultsCleared
  /-- DONE: CMD holds a command, and every result buffer but its own is cleared (R24). -/
  done : s.status = statusDone → ∃ i, decode s.cmd = .command i ∧ (resultBuffer i ≠ .hex → s.outHex = []) ∧
    (resultBuffer i ≠ .text → s.outText = []) ∧ (resultBuffer i ≠ .record → s.outRec = Rec.zero)
  /-- ERROR: the code is IllegalCommand exactly when CMD holds no command (30_encoding.md R72, R234). -/
  illegal : s.status = statusError → (s.errcode = errCode .illegalCommand ↔ ∀ i, decode s.cmd ≠ .command i)
  /-- OUT_HEX holds uppercase hex digits only (R22), two for each octet (R103). -/
  outHex : (∀ c ∈ s.outHex, isHex c = true) ∧ s.outHex.length % 2 = 0
  /-- OUT_HEX is within MAX_HEX (92_eei_decisions.md D8). -/
  outHexFits : Fits s.config.maxHex s.outHex.length
  /-- OUT_TEXT is within MAX_TEXT (D8). -/
  outTextFits : Fits s.config.maxText s.outText.length
  /-- IN_HEX is within MAX_HEX (R22). -/
  inHex : Fits s.config.maxHex s.inHex.length
  /-- IN_TEXT is within MAX_TEXT (R22). -/
  inText : Fits s.config.maxText s.inText.length

/-- A host program that keeps the protocol of 70_reset_and_hazards.md R265: once it has written a command word (`started`), it
waits before it writes again. A reset ends the command too. -/
def keepsProtocol (started : Bool) : List HostAction → Bool
  | [] => true
  | .wrHex _ :: rest => !started && keepsProtocol started rest
  | .wrText _ :: rest => !started && keepsProtocol started rest
  | .wrRec _ :: rest => !started && keepsProtocol started rest
  | .cmd _ :: rest => !started && keepsProtocol true rest
  | .wait :: rest => keepsProtocol false rest
  | .rd _ :: rest => keepsProtocol started rest
  | .reset :: rest => keepsProtocol false rest

/-- A state whose host keeps the protocol from here on. -/
def Safe (s : State) : Prop := keepsProtocol s.isBusy s.host = true

/-- A host program's run is over: its last action has executed and STATUS is not BUSY (70_reset_and_hazards.md R263). -/
def RunOver (s : State) : Prop := s.host = [] ∧ s.status ≠ statusBusy

/-- Whether reads of a register belong to the observation of a run (R263). -/
def observed : Reg → Bool
  | .status => true
  | .errcode => true
  | .outHex => true
  | .outText => true
  | .outRec => true
  | .cmd => false
  | .inHex => false
  | .inText => false
  | .inRec => false

/-- The observation of a run so far (R263). -/
def observation (s : State) : List Observation := s.log.filter fun o => observed o.reg

end Sys2Proof.Machine
end

