-- ==== Sys2Proof/Certificates/Slice0/Obligations.lean ====
section
/-!
DEFINITION. The statements for the provers. `Sys2Proof.Claim` holds the spec's formulas written a second time, by index and by
loop as the spec writes them, and not with the functions of Machine/; the statements say the machine agrees with them.
-/

namespace Sys2Proof.Claim

open Sys2Proof Sys2Proof.Machine

/-- An uppercase hex digit, by code point (40_nibble_octet.md R100). -/
abbrev IsDigit (c : Char) : Prop := (0x30 ≤ c.toNat ∧ c.toNat ≤ 0x39) ∨ (0x41 ≤ c.toNat ∧ c.toNat ≤ 0x46)

/-- A decimal digit. -/
abbrev IsDecimal (c : Char) : Prop := 0x30 ≤ c.toNat ∧ c.toNat ≤ 0x39

/-- `hexval` of a hex digit, by code point (00_scope.md R11). -/
def val (c : Char) : Nat := if c.toNat ≤ 0x39 then c.toNat - 0x30 else c.toNat - 0x37

/-- `hexchar`, by code point (00_scope.md R11). -/
def digitOf (v : Nat) : Char := Char.ofNat (if v < 10 then 0x30 + v else 0x37 + v)

/-- Every character is an uppercase hex digit. -/
abbrev AllDigits (h : List Char) : Prop := h.all (fun c => decide (IsDigit c)) = true

/-- Every character is a decimal digit. -/
abbrev AllDecimal (h : List Char) : Prop := h.all (fun c => decide (IsDecimal c)) = true

/-- What `checkHex(h, true)` lets through (40_nibble_octet.md R101). -/
abbrev HexOperand (h : HexString) : Prop := AllDigits h ∧ h.length % 2 = 0

/-- `h[k]`. -/
def at' (h : HexString) (k : Nat) : Char := h.getD k '0'

/-- Octet j of a hex string (20_memory.md R51). -/
def octetAt (h : HexString) (j : Nat) : Nat := 16 * val (at' h (2 * j)) + val (at' h (2 * j + 1))

/-- The characters of h with every pair swapped, by index (40_nibble_octet.md R105). -/
def swapped (h : HexString) : HexString :=
  (List.range (h.length / 2)).flatMap fun j => [at' h (2 * j + 1), at' h (2 * j)]

/-- The pairs of h from the last to the first, by index (40_nibble_octet.md R104). -/
def reversedPairs (h : HexString) : HexString :=
  (List.range (h.length / 2)).reverse.flatMap fun j => [at' h (2 * j), at' h (2 * j + 1)]

/-- `len > MAX` (00_scope.md R7). -/
abbrev Exceeds (cap : Option Nat) (len : Nat) : Prop := cap.any (fun m => decide (m < len)) = true

/-- The first 32 code points of 10_state.md R30 in index order (0 at the escape). -/
def stdHead : List Nat :=
  [0x40, 0xA3, 0x24, 0xA5, 0xE8, 0xE9, 0xF9, 0xEC, 0xF2, 0xC7, 0x0A, 0xD8, 0xF8, 0x0D, 0xC5, 0xE5,
   0x394, 0x5F, 0x3A6, 0x393, 0x39B, 0x3A9, 0x3A0, 0x3A8, 0x3A3, 0x398, 0x39E, 0, 0xC6, 0xE6, 0xDF, 0xC9]

/-- The code point of index i in 10_state.md R30: from 0x20 on it is i itself, but for twelve indices. -/
def stdCode (i : Nat) : Nat :=
  if i < 0x20 then stdHead.getD i 0
  else if i = 0x24 then 0xA4
  else if i = 0x40 then 0xA1
  else if i < 0x5B then i
  else if i < 0x61 then [0xC4, 0xD6, 0xD1, 0xDC, 0xA7, 0xBF].getD (i - 0x5B) 0
  else if i < 0x7B then i
  else [0xE4, 0xF6, 0xF1, 0xFC, 0xE0].getD (i - 0x7B) 0

/-- The code point of index i in 10_state.md R31, `none` where it is UNMAPPED. -/
def extCode (i : Nat) : Option Nat :=
  if i = 0x0A then some 0x0C
  else if i = 0x14 then some 0x5E
  else if i = 0x28 then some 0x7B
  else if i = 0x29 then some 0x7D
  else if i = 0x2F then some 0x5C
  else if i = 0x3C then some 0x5B
  else if i = 0x3D then some 0x7E
  else if i = 0x3E then some 0x5D
  else if i = 0x40 then some 0x7C
  else if i = 0x65 then some 0x20AC
  else none

/-- V of 41_gsm7.md R121. -/
def packedValue (h : HexString) : Nat :=
  ((List.range (h.length / 2)).map fun j => octetAt h j * 2 ^ (8 * j)).sum

/-- The septet list of 41_gsm7.md R121. -/
def septetList (h : HexString) : List Nat :=
  (List.range (8 * (h.length / 2) / 7)).map fun i => packedValue h / 2 ^ (7 * i) % 128

/-- One pass of the loop of 41_gsm7.md R123, on the text so far and the escape latch. -/
def septetLoop (c : Config) (acc : Text × Bool) (i : Nat) : Text × Bool :=
  if acc.2 then (acc.1 ++ [(c.extChar (BitVec.ofNat 7 i)).getD (Char.ofNat 0x20)], false)
  else if i = 0x1B then (acc.1, true)
  else (acc.1 ++ [c.stdChar (BitVec.ofNat 7 i)], false)

/-- `mapSeptets` as the loop of 41_gsm7.md R123. -/
def mappedText (c : Config) (s : List Nat) : Text := (s.foldl (septetLoop c) ([], false)).1

/-- `stripPad` under the flag (41_gsm7.md R120, R124). -/
def stripped (strip : Bool) (t : Text) (m : Nat) : Text :=
  if strip = true ∧ m % 8 = 0 ∧ t.getLast? = some (Char.ofNat 0x0D) then t.dropLast else t

/-- DEC7's text before the capacity check (41_gsm7.md R120). -/
def decodedText (c : Config) (strip : Bool) (h : HexString) : Text :=
  stripped strip (mappedText c (septetList h)) (septetList h).length

/-- One pass of the loop of 41_gsm7.md R127; `none` once a character was in neither table. -/
def indexLoop (c : Config) (acc : Option (List Septet)) (ch : Char) : Option (List Septet) :=
  match acc, c.stdIndex ch, c.extIndex ch with
  | none, _, _ => none
  | some idx, some i, _ => some (idx ++ [i])
  | some idx, none, some i => some (idx ++ [0x1B, i])
  | some _, none, none => none

/-- `indices(t)` as the loop of 41_gsm7.md R127. -/
def indexList (c : Config) (t : Text) : Option (List Septet) := t.foldl (indexLoop c) (some [])

/-- `addPad` under the flag, as one choice: at most one PAD is appended (41_gsm7.md R128). -/
def padded (c : Config) (pad : Bool) (idx : List Septet) (t : Text) : List Septet :=
  if pad = true ∧ ((idx.length % 8 = 0 ∧ t.getLast? = some (Char.ofNat 0x0D)) ∨ idx.length % 8 = 7) then
    idx ++ [c.padIndex]
  else idx

/-- What 41_gsm7.md R129 says DEC7 gives for ENC7's result on a text of m indices: (a) without flags, (b) with both, (c) padded and
not stripped. -/
def roundTrip (c : Config) (pad strip : Bool) (t : Text) (m : Nat) : Text :=
  let doubled := m % 8 = 0 ∧ 0 < m ∧ t.getLast? = some (Char.ofNat 0x0D)
  if pad = false then (if m % 8 = 7 then t ++ [c.stdChar 0] else t)
  else if strip = true then (if doubled then t ++ [Char.ofNat 0x0D] else t)
  else if m % 8 = 7 ∨ doubled then t ++ [Char.ofNat 0x0D]
  else t

/-- `ceil(7m/8)` octets for m indices (41_gsm7.md R125). -/
def octetCount (m : Nat) : Nat := (7 * m + 7) / 8

/-- The wire string of `pack(idx)` (41_gsm7.md R125, 40_nibble_octet.md R103). -/
def packedHex (idx : List Septet) : HexString :=
  (List.range (octetCount idx.length)).flatMap fun j =>
    let o := ((List.range idx.length).map fun i => (idx.getD i 0).toNat * 2 ^ (7 * i)).sum / 2 ^ (8 * j) % 256
    [digitOf (o / 16), digitOf (o % 16)]

/-- DECNUM's text (43_number.md R190). -/
def numberText (h : HexString) : Text :=
  if (swapped h).getLast? = some 'F' then (swapped h).dropLast else swapped h

/-- Days in a month (42_date.md R161). -/
def daysIn (y : Int) (m : Nat) : Nat :=
  if m = 2 then (if (4 ∣ y ∧ ¬ 100 ∣ y) ∨ 400 ∣ y then 29 else 28)
  else if m = 4 ∨ m = 6 ∨ m = 9 ∨ m = 11 then 30
  else 31

/-- A valid calendar time (42_date.md R161). -/
abbrev Valid (t : CivilTime) : Prop :=
  (1 ≤ t.month ∧ t.month ≤ 12) ∧ (1 ≤ t.day ∧ t.day ≤ daysIn t.year t.month) ∧ t.hour ≤ 23 ∧ t.minute ≤ 59 ∧ t.second ≤ 59

/-- The calendar time one second later. -/
def nextSecond (t : CivilTime) : CivilTime :=
  if t.second < 59 then { t with second := t.second + 1 }
  else if t.minute < 59 then { t with second := 0, minute := t.minute + 1 }
  else if t.hour < 23 then { t with second := 0, minute := 0, hour := t.hour + 1 }
  else if t.day < daysIn t.year t.month then { t with second := 0, minute := 0, hour := 0, day := t.day + 1 }
  else if t.month < 12 then { t with second := 0, minute := 0, hour := 0, day := 1, month := t.month + 1 }
  else { year := t.year + 1, month := 1, day := 1, hour := 0, minute := 0, second := 0 }

/-- Field j of a date on the wire: the pair's digits in semi-octet order (30_encoding.md R78, 20_memory.md R53). -/
def dateField (h : HexString) (j : Nat) : Nat := 10 * val (at' h (2 * j + 1)) + val (at' h (2 * j))

/-- The local calendar time a date string carries (42_date.md R165). -/
def localTime (h : HexString) : CivilTime :=
  { year := 2000 + dateField h 0, month := dateField h 1, day := dateField h 2, hour := dateField h 3
    minute := dateField h 4, second := dateField h 5 }

/-- The timezone octet of a date string (30_encoding.md R78). -/
def tzOctet (h : HexString) : Nat := 16 * val (at' h 13) + val (at' h 12)

/-- Its offset in quarter-hours (42_date.md R163). -/
def tzOffset (o : Nat) : Int := if o < 128 then o else -((o : Int) - 128)

/-- The two wire digits of a two-digit decimal field: units first (30_encoding.md R78, 20_memory.md R53). -/
def wirePair (v : Nat) : HexString := [digitOf (v % 10), digitOf (v / 10)]

/-- The wire octet of an offset, low nibble first (42_date.md R164). -/
def wireOffset (off : Int) : HexString :=
  let o := (if 0 ≤ off then off else 128 - off).toNat
  [digitOf (o % 16), digitOf (o / 16)]

/-- A calendar time as DECDATE's record (42_date.md R165). -/
def dateRecord (u : CivilTime) : Rec :=
  { year := BitVec.ofInt 16 u.year, month := BitVec.ofNat 8 u.month, day := BitVec.ofNat 8 u.day
    hour := BitVec.ofNat 8 u.hour, minute := BitVec.ofNat 8 u.minute, second := BitVec.ofNat 8 u.second
    tzPresent := 1, tzQuarters := 0, ton := 0, npi := 0 }

/-- The calendar time of a record's fields, as numbers (10_state.md R23). -/
def timeOf (r : Rec) : CivilTime :=
  { year := r.year.toNat, month := r.month.toNat, day := r.day.toNat, hour := r.hour.toNat, minute := r.minute.toNat
    second := r.second.toNat }

/-- The offset a record gives ENCDATE (42_date.md R170). -/
def offsetOf (r : Rec) : Int := if r.tzPresent = 1 then r.tzQuarters.toInt else 0

/-- `ENCDATE` accepts the record (42_date.md R170). -/
abbrev DateAccepted (r : Rec) : Prop :=
  (2000 ≤ r.year.toNat ∧ r.year.toNat ≤ 2099) ∧ Valid (timeOf r) ∧ ¬ (r.tzPresent = 1 ∧ r.tzQuarters.toInt = -128)

/-- A date string DECDATE finds well-formed: 14 hex digits, the first twelve decimal (42_date.md R165). -/
abbrev DateDigits (h : HexString) : Prop := HexOperand h ∧ h.length = 14 ∧ ∀ k, k < 12 → IsDecimal (at' h k)

/-- An NPI code in NPI_DEFINED, as a number (10_state.md R34). -/
abbrev NpiDefined (c : Config) (n : Nat) : Prop := ∃ d ∈ c.npiDefined, d.toNat = n

/-- The ten OPCODE values as numbers (30_encoding.md R71). -/
def opcodes : List Nat := [0x01, 0x02, 0x10, 0x11, 0x20, 0x21, 0x30, 0x31, 0x40, 0x41]

/-- A word R72 dispatches, in numbers: OPCODE known, RSV zero, P only with DEC7 and ENC7 (30_encoding.md R72). -/
abbrev Dispatched (w : Word) : Prop :=
  w.toNat % 256 ∈ opcodes ∧ w.toNat / 512 = 0 ∧ (w.toNat / 256 % 2 = 1 → w.toNat % 256 = 0x10 ∨ w.toNat % 256 = 0x11)

/-- The register state of a command's start: 70_reset_and_hazards.md R262 down to the snapshot. -/
def started (s : State) (w : Word) : State :=
  { s with cmd := w, status := statusBusy, errcode := errNone, outHex := [], outText := [], outRec := Rec.zero }

/-- The unit is about to end the command in CMD. -/
abbrev Ending (s : State) : Prop := s.status = statusBusy ∧ s.delay = 0

/-- The outcome of error completion (60_exceptions.md R230). -/
def failed (s : State) (k : ErrKind) : Host.Outcome State Fault Refusal :=
  .next { s with status := statusError, errcode := errCode k }

/-- What the host reads from each register (10_state.md R22). -/
def registerValue (s : State) (r : Reg) : RegValue :=
  match r with
  | .cmd => .word s.cmd
  | .status => .status s.status
  | .errcode => .errcode s.errcode
  | .inHex => .hex s.inHex
  | .inText => .text s.inText
  | .inRec => .record s.inRec
  | .outHex => .hex s.outHex
  | .outText => .text s.outText
  | .outRec => .record s.outRec

/-- The result that 92_eei_decisions.md D8 finds too long for its buffer, in the three commands whose own rules have no such check
(log 11). -/
def BeyondCapacity (i : Instr) (s : State) : Prop :=
  (i = .decnum ∧ HexOperand s.inHex ∧ Exceeds s.config.maxText (numberText s.inHex).length) ∨
  (i = .encdate ∧ DateAccepted s.inRec ∧ Exceeds s.config.maxHex 14) ∨
  (i = .enctoa ∧ (s.inRec.ton.toNat ≤ 7 ∧ NpiDefined s.config s.inRec.npi.toNat) ∧ Exceeds s.config.maxHex 2)

/-- The commands that read IN_HEX (10_state.md R24). -/
def ReadsHex : Instr → Prop
  | .revo => True
  | .swpn => True
  | .dec7 _ => True
  | .enc7 _ => False
  | .decdate => True
  | .encdate => False
  | .decnum => True
  | .encnum => False
  | .dectoa => True
  | .enctoa => False

/-- Two states give a command the same operand: R24's column "reads". -/
def SameOperand (s t : State) : Instr → Prop
  | .revo => s.inHex = t.inHex
  | .swpn => s.inHex = t.inHex
  | .dec7 _ => s.inHex = t.inHex
  | .enc7 _ => s.inText = t.inText
  | .decdate => s.inHex = t.inHex
  | .encdate => timeOf s.inRec = timeOf t.inRec ∧ s.inRec.tzPresent = t.inRec.tzPresent ∧
      s.inRec.tzQuarters = t.inRec.tzQuarters
  | .decnum => s.inHex = t.inHex
  | .encnum => s.inText = t.inText
  | .dectoa => s.inHex = t.inHex
  | .enctoa => s.inRec.ton = t.inRec.ton ∧ s.inRec.npi = t.inRec.npi

/-- A host action that writes CMD or an operand buffer (70_reset_and_hazards.md R265). -/
def Writes : HostAction → Prop
  | .wrHex _ => True
  | .wrText _ => True
  | .wrRec _ => True
  | .cmd _ => True
  | .wait => False
  | .rd _ => False
  | .reset => False

/-- STATUS and ERRCODE hold a pair R25 and R26 allow. -/
abbrev CodesLegal (s : State) : Prop :=
  (s.status = statusError → 1 ≤ s.errcode.toNat ∧ s.errcode.toNat ≤ 4) ∧ (s.status ≠ statusError → s.errcode = errNone)

end Sys2Proof.Claim

open Sys2Proof Sys2Proof.Machine Sys2Proof.Claim

/-! ### Command words -/

/-- The words of 30_encoding.md R71 and R75 decode to their commands, and the words of 95_test_vectors.md L2.1 that are not
dispatched do not. -/
def Obligations.SpecWordsDecode : Prop :=
  (decode 0x00000001 = .command .revo ∧ decode 0x00000002 = .command .swpn ∧ decode 0x00000010 = .command (.dec7 false) ∧
    decode 0x00000110 = .command (.dec7 true) ∧ decode 0x00000011 = .command (.enc7 false) ∧
    decode 0x00000111 = .command (.enc7 true) ∧ decode 0x00000020 = .command .decdate ∧
    decode 0x00000021 = .command .encdate ∧ decode 0x00000030 = .command .decnum ∧ decode 0x00000031 = .command .encnum ∧
    decode 0x00000040 = .command .dectoa ∧ decode 0x00000041 = .command .enctoa) ∧
  (decode 0x00000000 = .illegal .unknownOpcode ∧ decode 0x000000FF = .illegal .unknownOpcode ∧
    decode 0x00000101 = .illegal .flagNotAllowed ∧ decode 0x00000120 = .illegal .flagNotAllowed ∧
    decode 0x00010010 = .illegal .reservedBits ∧ decode 0x00000210 = .illegal .reservedBits ∧
    decode 0x80000011 = .illegal .reservedBits)

/-- 30_encoding.md R71, R75: a word decodes to a command exactly when it is that command's encoded word; so decoding an encoded
command gives it back, and no other word does. -/
def Obligations.DecodeExactlyTheEncodedWord : Prop :=
  ∀ (w : Word) (i : Instr), decode w = .command i ↔ w = encode i

/-- 30_encoding.md R72: every one of the 2^32 words is classified, by the checks in their order. -/
def Obligations.DecodeClassifiesEveryWord : Prop :=
  ∀ w : Word,
    (w.toNat % 256 ∉ opcodes → decode w = .illegal .unknownOpcode) ∧
    (w.toNat % 256 ∈ opcodes → w.toNat / 512 ≠ 0 → decode w = .illegal .reservedBits) ∧
    (w.toNat % 256 ∈ opcodes → w.toNat / 512 = 0 → w.toNat / 256 % 2 = 1 →
      ¬ (w.toNat % 256 = 0x10 ∨ w.toNat % 256 = 0x11) → decode w = .illegal .flagNotAllowed) ∧
    (Dispatched w → ∃ i, decode w = .command i ∧ (opcodeOf i).toNat = w.toNat % 256 ∧
      flagOf i = decide (w.toNat / 256 % 2 = 1))

/-- 60_exceptions.md R234, 30_encoding.md R73: a word that is not dispatched ends with IllegalCommand, whatever the operands
hold. -/
def Obligations.UndispatchedWordIsIllegalCommand : Prop :=
  ∀ s : State, Ending s → ¬ Dispatched s.cmd → step s = failed s .illegalCommand

/-! ### The step, the host and reset -/

/-- A step of the unit is `exec` of the command CMD decodes to, with nothing added around it. -/
def Obligations.StepRunsTheDecodedCommand : Prop :=
  ∀ (s : State) (i : Instr), Ending s → decode s.cmd = .command i → step s = exec i s

/-- 70_reset_and_hazards.md R262 (its first half), 60_exceptions.md R238: a host write of CMD while STATUS is IDLE, DONE or ERROR
starts a command; ERROR needs no acknowledgement. The delay is a free value (log 2). -/
def Obligations.CommandWriteStartsCommand : Prop :=
  ∀ (s : State) (w : Word) (rest : List HostAction), s.status ≠ statusBusy → s.host = .cmd w :: rest →
    step s = .next { started s w with host := rest, delay := Config.freeBusyDelay s.issued, issued := s.issued + 1 }

/-- 70_reset_and_hazards.md R262, R266: a command the host writes and waits for runs to its end in finitely many steps, whatever
its delay; STATUS is BUSY in between, and the end is what R262 says of the word and of the operands at the start. -/
def Obligations.EveryCommandCompletes : Prop :=
  ∀ (s : State) (w : Word) (rest : List HostAction), s.status ≠ statusBusy → s.host = .cmd w :: rest →
    (rest = [] ∨ ∃ more, rest = .wait :: more) →
    ∃ (n : Nat) (t : State), Host.Core.run Sys2Proof.core n s = .next t ∧ t.status ≠ statusBusy ∧
      (∀ i, decode w = .command i →
        exec i { started s w with host := rest, delay := 0, issued := s.issued + 1 } = .next t) ∧
      ((∀ i, decode w ≠ .command i) →
        failed { started s w with host := rest, delay := 0, issued := s.issued + 1 } .illegalCommand = .next t) ∧
      ∀ k, 0 < k → k < n → ∃ u : State, Host.Core.run Sys2Proof.core k s = .next u ∧ u.status = statusBusy

/-- 60_exceptions.md R242, 70_reset_and_hazards.md R265: a host write of CMD or of an operand buffer while STATUS is BUSY is the
fault HostHazard. -/
def Obligations.WriteWhileBusyIsHostHazard : Prop :=
  ∀ (s : State) (a : HostAction) (rest : List HostAction), s.status = statusBusy → s.delay ≠ 0 → s.host = a :: rest → Writes a →
    step s = .fault .hostHazard

/-- Nothing else stops the machine, and nothing is refused. -/
def Obligations.OnlyHostHazardStops : Prop :=
  ∀ s : State, (∀ f, step s = .fault f → s.status = statusBusy ∧ s.delay ≠ 0 ∧ ∃ a rest, s.host = a :: rest ∧ Writes a) ∧
    ∀ r, step s ≠ .refused r

/-- 70_reset_and_hazards.md R264, R265: a host that waits for each command never meets HostHazard, however long BUSY lasts, and
goes on keeping the protocol. -/
def Obligations.ProtocolKeepingHostIsNeverStopped : Prop :=
  ∀ s : State, Safe s → ∃ t, step s = .next t ∧ Safe t

/-- 20_memory.md R57, 10_state.md R22, 70_reset_and_hazards.md R264: a read has no side effect on the block, and the host sees
that register's value, spelt out for each of the nine (while BUSY the result buffers as they stand). One turn of the delay passes
while BUSY. -/
def Obligations.ReadsHaveNoSideEffect : Prop :=
  ∀ (s : State) (r : Reg) (rest : List HostAction), ¬ Ending s → s.host = .rd r :: rest →
    step s = .next { s with
      host := rest
      log := s.log ++ [⟨r, registerValue s r⟩]
      delay := if s.status = statusBusy then s.delay - 1 else s.delay }

/-- 10_state.md R22, 92_eei_decisions.md D8, D33: what the ports of the operand buffers accept, and that a refused write leaves
the buffer as it was. -/
def Obligations.OperandPortsAcceptOrKeep : Prop :=
  ∀ (s : State) (rest : List HostAction), s.status ≠ statusBusy →
    (∀ chars, s.host = .wrHex chars :: rest → ¬ Exceeds s.config.maxHex chars.length →
      step s = .next { s with host := rest, inHex := chars }) ∧
    (∀ chars, s.host = .wrHex chars :: rest → Exceeds s.config.maxHex chars.length →
      step s = .next { s with host := rest }) ∧
    (∀ text : Text, s.host = .wrText (text.map Char.toNat) :: rest → ¬ Exceeds s.config.maxText text.length →
      step s = .next { s with host := rest, inText := text }) ∧
    (∀ values, s.host = .wrText values :: rest →
      (Exceeds s.config.maxText values.length ∨ ∃ v ∈ values, 0x10FFFF < v ∨ (0xD800 ≤ v ∧ v ≤ 0xDFFF)) →
      step s = .next { s with host := rest }) ∧
    (∀ r, s.host = .wrRec r :: rest → step s = .next { s with host := rest, inRec := r })

/-- 30_encoding.md R76: `wait` is polled until STATUS is not BUSY. -/
def Obligations.WaitPollsUntilNotBusy : Prop :=
  ∀ (s : State) (rest : List HostAction), s.host = .wait :: rest →
    (s.status ≠ statusBusy → step s = .next { s with host := rest }) ∧
    (s.status = statusBusy → s.delay ≠ 0 → step s = .next { s with delay := s.delay - 1 })

/-- 10_state.md R25, R26: the codes of STATUS and ERRCODE. -/
def Obligations.StatusAndErrorCodes : Prop :=
  statusIdle.toNat = 0 ∧ statusBusy.toNat = 1 ∧ statusDone.toNat = 2 ∧ statusError.toNat = 3 ∧ errNone.toNat = 0 ∧
  (errCode .validation).toNat = 1 ∧ (errCode .encoding).toNat = 2 ∧ (errCode .malformed).toNat = 3 ∧
  (errCode .illegalCommand).toNat = 4

/-- 10_state.md R36: the reset values, over the default parameters of 00_scope.md R7. -/
def Obligations.ResetValues : Prop :=
  State.reset.cmd = 0 ∧ State.reset.status = 0 ∧ State.reset.errcode = 0 ∧ State.reset.inHex = [] ∧
  State.reset.inText = [] ∧ State.reset.inRec = ⟨0, 0, 0, 0, 0, 0, 0, 0, 0, 0⟩ ∧ State.reset.outHex = [] ∧
  State.reset.outText = [] ∧ State.reset.outRec = ⟨0, 0, 0, 0, 0, 0, 0, 0, 0, 0⟩ ∧ State.reset.config = defaultConfig ∧
  ∀ s : State, s.hardReset.config = s.config

/-- 70_reset_and_hazards.md R260: the reset event, also while a command runs: every register and buffer takes its reset value, the
command is abandoned and the ROM is unaffected. What the host has still to do and has read is the model's (log 12). -/
def Obligations.ResetEventAbandonsTheCommand : Prop :=
  ∀ (s : State) (rest : List HostAction), ¬ Ending s → s.host = .reset :: rest →
    step s = .next { State.reset with config := s.config, host := rest, log := s.log, issued := s.issued }

/-- 70_reset_and_hazards.md R263: when the run is over nothing changes any more (log 4: the model's choice of a step there). -/
def Obligations.FinishedRunIsStable : Prop :=
  ∀ s : State, RunOver s → step s = .next s

/-- 10_state.md R28: no step changes the ROM tables or the capacities. -/
def Obligations.RomNeverChanges : Prop :=
  ∀ s t : State, step s = .next t → t.config = s.config

/-- 70_reset_and_hazards.md R262 (the snapshot), R265: while a command runs, a step of the host other than a reset changes no
operand buffer and not CMD, so the operands at the command's end are those at its start (log 10). -/
def Obligations.OperandsStableWhileBusy : Prop :=
  ∀ s t : State, s.status = statusBusy → step s = .next t → (∀ rest, s.host ≠ .reset :: rest) →
    t.inHex = s.inHex ∧ t.inText = s.inText ∧ t.inRec = s.inRec ∧ t.cmd = s.cmd

/-- 10_state.md R25, R26: the pair STATUS, ERRCODE stays legal: ERRCODE is 0 while STATUS is IDLE, BUSY or DONE, and 5 to 7 are
never written. -/
def Obligations.StatusAndErrcodeStayLegal : Prop :=
  ∀ s t : State, CodesLegal s → step s = .next t → CodesLegal t

/-- Every step keeps the invariant of runs (Safety.lean): lawful tables, legal codes, cleared buffers but the result's, OUT_HEX
uppercase octets, operands and results within capacity. -/
def Obligations.InvariantKeptByEveryStep : Prop :=
  ∀ s t : State, Inv s → step s = .next t → Inv t

/-- The invariant holds right after reset. -/
def Obligations.InvariantHoldsAtReset : Prop := Inv State.reset

/-! ### What every command does and leaves alone -/

/-- 10_state.md R24, 60_exceptions.md R230, 20_memory.md R61: every command ends DONE or ERROR; CMD, the operand buffers, the ROM
and the host's side are untouched; on DONE the result buffers other than the command's own are untouched; on ERROR only STATUS
and ERRCODE differ. -/
def Obligations.CommandFrame : Prop :=
  ∀ (i : Instr) (s t : State), exec i s = .next t →
    (t.cmd = s.cmd ∧ t.inHex = s.inHex ∧ t.inText = s.inText ∧ t.inRec = s.inRec ∧ t.config = s.config ∧ t.host = s.host ∧
      t.log = s.log ∧ t.delay = s.delay ∧ t.issued = s.issued) ∧
    ((t.status = statusDone ∧ t.errcode = s.errcode ∧ (resultBuffer i ≠ .hex → t.outHex = s.outHex) ∧
        (resultBuffer i ≠ .text → t.outText = s.outText) ∧ (resultBuffer i ≠ .record → t.outRec = s.outRec)) ∨
      ∃ k : ErrKind, k ≠ .illegalCommand ∧ t = { s with status := statusError, errcode := errCode k })

/-- Every command answers a next state, on every state: ordinary data never stops the block. -/
def Obligations.EveryCommandAnswers : Prop :=
  ∀ (i : Instr) (s : State), ∃ t, exec i s = .next t ∧ (t.status = statusDone ∨ t.status = statusError)

/-- 70_reset_and_hazards.md R262: a command's outcome depends on its word, the operand R24 says it reads and the ROM alone. -/
def Obligations.OutcomeDependsOnOperandAndRomOnly : Prop :=
  ∀ (i : Instr) (s t s' t' : State), s.config = t.config → SameOperand s t i →
    s.ResultsCleared → t.ResultsCleared → s.errcode = errNone → t.errcode = errNone → exec i s = .next s' → exec i t = .next t' →
    s'.status = t'.status ∧ s'.errcode = t'.errcode ∧ s'.outHex = t'.outHex ∧ s'.outText = t'.outText ∧
      s'.outRec = t'.outRec

/-- 60_exceptions.md R231: ValidationError is raised in exactly these cases. -/
def Obligations.ValidationErrorExactly : Prop :=
  ∀ (i : Instr) (s : State), exec i s = failed s .validation ↔
    (i = .dectoa ∧ HexOperand s.inHex ∧ s.inHex.length = 2 ∧
      (octetAt s.inHex 0 < 128 ∨ ¬ NpiDefined s.config (octetAt s.inHex 0 % 16))) ∨
    (i = .enctoa ∧ (7 < s.inRec.ton.toNat ∨ ¬ NpiDefined s.config s.inRec.npi.toNat)) ∨
    (i = .decdate ∧ DateDigits s.inHex ∧ ¬ Valid (localTime s.inHex)) ∨
    (i = .encdate ∧ ¬ DateAccepted s.inRec)

/-- 60_exceptions.md R232: EncodingError is raised only by ENC7, exactly when a character is in neither table. U+001B is such a
character under every table (log 15 names the tables on which the spec's sentences differ). -/
def Obligations.EncodingErrorExactly : Prop :=
  (∀ c : Config, c.stdIndex (Char.ofNat 0x1B) = none ∧ c.extIndex (Char.ofNat 0x1B) = none) ∧
  (∀ (i : Instr) (s : State), exec i s = failed s .encoding ↔
    (∃ pad, i = .enc7 pad) ∧ ∃ ch ∈ s.inText, s.config.stdIndex ch = none ∧ s.config.extIndex ch = none)

/-- 60_exceptions.md R233: MalformedInputError is raised in exactly these cases, where the result is not one that D8 alone finds
too long (ResultOverCapacityIsMalformed; log 11). -/
def Obligations.MalformedInputErrorExactly : Prop :=
  ∀ (i : Instr) (s : State), ¬ BeyondCapacity i s → (exec i s = failed s .malformed ↔
    (ReadsHex i ∧ ¬ HexOperand s.inHex) ∨
    (i = .decdate ∧ (s.inHex.length ≠ 14 ∨ ∃ k, k < 12 ∧ ¬ IsDecimal (at' s.inHex k))) ∨
    (i = .dectoa ∧ s.inHex.length ≠ 2) ∨
    (i = .encnum ∧ ¬ AllDigits s.inText) ∨
    (∃ strip, i = .dec7 strip ∧ Exceeds s.config.maxText (decodedText s.config strip s.inHex).length) ∨
    (∃ pad idx, i = .enc7 pad ∧ indexList s.config s.inText = some idx ∧
      Exceeds s.config.maxHex (2 * octetCount (padded s.config pad idx s.inText).length)) ∨
    (i = .encnum ∧ Exceeds s.config.maxHex (s.inText.length + s.inText.length % 2)))

/-- 92_eei_decisions.md D8 (with 00_scope.md R7): a result beyond capacity is MalformedInputError also for DECNUM, ENCDATE and
ENCTOA, whose own rules have no such check: the model's reading (log 11). -/
def Obligations.ResultOverCapacityIsMalformed : Prop :=
  ∀ (i : Instr) (s : State), BeyondCapacity i s → exec i s = failed s .malformed

/-- 92_eei_decisions.md D8: whatever the command, the result it ends DONE with fits its buffer. -/
def Obligations.ResultsFitTheirBuffers : Prop :=
  ∀ (i : Instr) (s t : State), Fits s.config.maxHex s.inHex.length → exec i s = .next t → t.status = statusDone →
    (resultBuffer i = .hex → Fits s.config.maxHex t.outHex.length) ∧
    (resultBuffer i = .text → Fits s.config.maxText t.outText.length)

/-! ### Nibble and octet utilities -/

/-- 40_nibble_octet.md R104: REVO. -/
def Obligations.RevoReversesOctets : Prop :=
  encode .revo = 0x00000001 ∧ ∀ s : State,
    (HexOperand s.inHex → exec .revo s = .next { s with status := statusDone, outHex := reversedPairs s.inHex }) ∧
    (¬ HexOperand s.inHex → exec .revo s = failed s .malformed)

/-- 40_nibble_octet.md R105: SWPN. -/
def Obligations.SwpnSwapsNibbles : Prop :=
  encode .swpn = 0x00000002 ∧ ∀ s : State,
    (HexOperand s.inHex → exec .swpn s = .next { s with status := statusDone, outHex := swapped s.inHex }) ∧
    (¬ HexOperand s.inHex → exec .swpn s = failed s .malformed)

/-- 40_nibble_octet.md R106: both utilities are self-inverse and keep the length, and in either order they give the characters in
fully reversed order. -/
def Obligations.NibbleUtilityLaws : Prop :=
  ∀ (s r w rr ww rw wr : State), HexOperand s.inHex →
    exec .revo s = .next r → exec .swpn s = .next w →
    exec .revo { r with inHex := r.outHex } = .next rr → exec .swpn { w with inHex := w.outHex } = .next ww →
    exec .revo { w with inHex := w.outHex } = .next rw → exec .swpn { r with inHex := r.outHex } = .next wr →
    (rr.status = statusDone ∧ rr.outHex = s.inHex) ∧ (ww.status = statusDone ∧ ww.outHex = s.inHex) ∧
    (rw.status = statusDone ∧ wr.status = statusDone ∧ rw.outHex = s.inHex.reverse ∧ wr.outHex = s.inHex.reverse) ∧
    r.outHex.length = s.inHex.length ∧ w.outHex.length = s.inHex.length

/-! ### GSM 7-bit codec -/

/-- 10_state.md R32 (with R29): under tables that meet R29 the lookups are the table's rows, both ways, and no character is in
both sets; the reverse lookups leave out U+001B (R32, D15; log 15). -/
def Obligations.TableLookupsAreTheRows : Prop :=
  ∀ c : Config, c.wellFormed = true →
    (∀ (i : Septet) (ch : Char), i ≠ 0x1B → (c.stdChar i = ch ↔ (i, ch) ∈ c.gsm7Std)) ∧
    (∀ (i : Septet) (ch : Char), c.stdIndex ch = some i ↔ (i, ch) ∈ c.gsm7Std ∧ i ≠ 0x1B ∧ ch ≠ Char.ofNat 0x1B) ∧
    (∀ (i : Septet) (ch : Char), c.extChar i = some ch ↔ (i, ch) ∈ c.gsm7Ext) ∧
    (∀ (i : Septet) (ch : Char), c.extIndex ch = some i ↔ (i, ch) ∈ c.gsm7Ext ∧ ch ≠ Char.ofNat 0x1B) ∧
    (∀ (i j : Septet) (ch : Char), (i, ch) ∈ c.gsm7Std → (j, ch) ∉ c.gsm7Ext) ∧
    c.stdIndex (Char.ofNat 0x0D) = some c.padIndex

/-- 10_state.md R30, R31, R34: the default parameters are lawful and hold every entry of R30 and R31 and no other, and the ten
codes of R34; PAD_IDX is 0x0D and U+001B is unencodable. -/
def Obligations.DefaultTablesAreLawful : Prop :=
  defaultConfig.wellFormed = true ∧ defaultConfig.gsm7Std.length = 127 ∧ defaultConfig.gsm7Ext.length = 10 ∧
  (∀ i : Septet, i ≠ 0x1B → (defaultConfig.stdChar i).toNat = stdCode i.toNat) ∧
  (∀ i : Septet, (defaultConfig.extChar i).map Char.toNat = extCode i.toNat) ∧
  (∀ n : Nat, NpiDefined defaultConfig n ↔ n ∈ [0, 1, 3, 4, 5, 6, 8, 9, 10, 15]) ∧
  defaultConfig.padIndex = 0x0D ∧ defaultConfig.stdIndex (Char.ofNat 0x1B) = none ∧
  defaultConfig.extIndex (Char.ofNat 0x1B) = none

/-- 20_memory.md R52: septet i continues at bit 7i of the octets, low bit first, across octet boundaries. -/
def Obligations.UnpackReadsBitsInOrder : Prop :=
  ∀ (o : List Octet) (i b : Nat), i < 8 * o.length / 7 → b < 7 →
    ((unpack o).getD i 0).getLsbD b = (o.getD ((7 * i + b) / 8) 0).getLsbD ((7 * i + b) % 8)

/-- 30_encoding.md R77, 41_gsm7.md R125: the octets hold the septets' bits in order, and zero bits above them. -/
def Obligations.PackWritesBitsInOrder : Prop :=
  ∀ idx : List Septet, (pack idx).length = octetCount idx.length ∧ ∀ j b : Nat, j < octetCount idx.length → b < 8 →
    ((pack idx).getD j 0).getLsbD b = (idx.getD ((8 * j + b) / 7) 0).getLsbD ((8 * j + b) % 7)

/-- 41_gsm7.md R122: the septet count, its residues mod 8, and that the leftover bits are ignored whatever their values. -/
def Obligations.SeptetCountAndLeftoverBits : Prop :=
  ∀ o o' : List Octet, (unpack o).length = 8 * o.length / 7 ∧
    (unpack o).length = 8 * (o.length / 7) + o.length % 7 ∧ (unpack o).length % 8 ≠ 7 ∧
    ((unpack o).length % 8 = 0 ↔ o.length % 7 = 0) ∧
    (o.length = o'.length →
      (∀ k, k < 8 * o.length - 8 * o.length % 7 →
        (o.getD (k / 8) 0).getLsbD (k % 8) = (o'.getD (k / 8) 0).getLsbD (k % 8)) →
      unpack o = unpack o')

/-- 41_gsm7.md R120 (with R121, R123, R124): DEC7. -/
def Obligations.Dec7DecodesPackedText : Prop :=
  encode (.dec7 false) = 0x00000010 ∧ encode (.dec7 true) = 0x00000110 ∧ ∀ (s : State) (strip : Bool),
    (HexOperand s.inHex → ¬ Exceeds s.config.maxText (decodedText s.config strip s.inHex).length →
      exec (.dec7 strip) s = .next { s with status := statusDone, outText := decodedText s.config strip s.inHex }) ∧
    (HexOperand s.inHex → Exceeds s.config.maxText (decodedText s.config strip s.inHex).length →
      exec (.dec7 strip) s = failed s .malformed) ∧
    (¬ HexOperand s.inHex → exec (.dec7 strip) s = failed s .malformed)

/-- 41_gsm7.md R126 (with R125, R127, R128): ENC7. -/
def Obligations.Enc7EncodesText : Prop :=
  encode (.enc7 false) = 0x00000011 ∧ encode (.enc7 true) = 0x00000111 ∧ ∀ (s : State) (pad : Bool),
    (∀ idx, indexList s.config s.inText = some idx →
      ¬ Exceeds s.config.maxHex (2 * octetCount (padded s.config pad idx s.inText).length) →
      exec (.enc7 pad) s = .next { s with status := statusDone, outHex := packedHex (padded s.config pad idx s.inText) }) ∧
    (∀ idx, indexList s.config s.inText = some idx →
      Exceeds s.config.maxHex (2 * octetCount (padded s.config pad idx s.inText).length) →
      exec (.enc7 pad) s = failed s .malformed) ∧
    (indexList s.config s.inText = none → exec (.enc7 pad) s = failed s .encoding)

/-- 41_gsm7.md R130: DEC7 raises no EncodingError and no ValidationError, ENC7 no ValidationError, and the lengths of their
results. -/
def Obligations.Gsm7ErrorsAndLengths : Prop :=
  ∀ (s : State) (p : Bool),
    (∃ t, exec (.dec7 p) s = .next t ∧
      ((t.status = statusDone ∧ t.outText.length ≤ 8 * (s.inHex.length / 2) / 7) ∨
        (t.status = statusError ∧ t.errcode = errCode .malformed))) ∧
    ∃ t, exec (.enc7 p) s = .next t ∧
      ((∃ idx, indexList s.config s.inText = some idx ∧ t.status = statusDone ∧
          t.outHex.length = 2 * octetCount (padded s.config p idx s.inText).length) ∨
        (t.status = statusError ∧ (t.errcode = errCode .encoding ∨ t.errcode = errCode .malformed)))

/-- 41_gsm7.md R129: the three round trips of ENC7 and DEC7, under every table that meets R29, for every text ENC7 accepts and
whose round trip fits MAX_TEXT. R129 has no law for a text encoded without and decoded with the flag. -/
def Obligations.Gsm7RoundTrips : Prop :=
  ∀ (s e : State) (idx : List Septet) (pad strip : Bool), s.config.wellFormed = true →
    indexList s.config s.inText = some idx → exec (.enc7 pad) s = .next e → e.status = statusDone →
    (strip = true → pad = true) →
    Fits s.config.maxText (roundTrip s.config pad strip s.inText idx.length).length →
    ∃ d : State, exec (.dec7 strip) { e with inHex := e.outHex } = .next d ∧ d.status = statusDone ∧
      d.outText = roundTrip s.config pad strip s.inText idx.length

/-! ### Date codec -/

/-- 42_date.md R161: which calendar times are valid. -/
def Obligations.CalendarValidity : Prop := ∀ t : CivilTime, validLocal t = true ↔ Valid t

/-- 42_date.md R162: `secs` is 0 at 2000-01-01T00:00:00 and counts one for every second of the calendar, so it is the number of
seconds from there. -/
def Obligations.SecondsFollowTheCalendar : Prop :=
  secs ⟨2000, 1, 1, 0, 0, 0⟩ = 0 ∧ ∀ t : CivilTime, Valid t → secs (nextSecond t) = secs t + 1

/-- 42_date.md R162: `civil` is the inverse of `secs`, for any year. -/
def Obligations.CivilInvertsSeconds : Prop :=
  (∀ t : CivilTime, Valid t → civil (secs t) = t) ∧ ∀ n : Int, Valid (civil n) ∧ secs (civil n) = n

/-- 42_date.md R163, R164: the timezone octet decodes as sign and magnitude, and encoding is the inverse on -127..127. -/
def Obligations.TimezoneOctetCodec : Prop :=
  (∀ o : Octet, tzDecode o = tzOffset o.toNat) ∧
  (∀ off : Int, -127 ≤ off → off ≤ 127 →
    tzDecode (tzEncode off) = off ∧ ((tzEncode off).toNat : Int) = if 0 ≤ off then off else 128 - off)

/-- 42_date.md R165: DECDATE, with its checks in order. -/
def Obligations.DecdateDecodesToUtc : Prop :=
  encode .decdate = 0x00000020 ∧ ∀ s : State,
    (¬ DateDigits s.inHex → exec .decdate s = failed s .malformed) ∧
    (DateDigits s.inHex → ¬ Valid (localTime s.inHex) → exec .decdate s = failed s .validation) ∧
    (DateDigits s.inHex → Valid (localTime s.inHex) → ∃ u : CivilTime, Valid u ∧
      secs u = secs (localTime s.inHex) - 900 * tzOffset (tzOctet s.inHex) ∧ 1999 ≤ u.year ∧ u.year ≤ 2100 ∧
      exec .decdate s = .next { s with status := statusDone, outRec := dateRecord u })

/-- 42_date.md R170: ENCDATE; the local fields are written unchanged. (A MAX_HEX below 14: ResultOverCapacityIsMalformed.) -/
def Obligations.EncdateWritesLocalFields : Prop :=
  encode .encdate = 0x00000021 ∧ ∀ s : State,
    (DateAccepted s.inRec → ¬ Exceeds s.config.maxHex 14 → exec .encdate s = .next { s with
      status := statusDone
      outHex := wirePair (s.inRec.year.toNat - 2000) ++ wirePair s.inRec.month.toNat ++ wirePair s.inRec.day.toNat ++
        wirePair s.inRec.hour.toNat ++ wirePair s.inRec.minute.toNat ++ wirePair s.inRec.second.toNat ++
        wireOffset (offsetOf s.inRec) }) ∧
    (¬ DateAccepted s.inRec → exec .encdate s = failed s .validation)

/-- 42_date.md R171 (a): what ENCDATE writes DECDATE reads as the same instant in UTC, and with offset 0 as the same fields. -/
def Obligations.EncodedDateDecodesToSameInstant : Prop :=
  ∀ s e : State, exec .encdate s = .next e → e.status = statusDone →
    ∃ d : State, exec .decdate { e with inHex := e.outHex } = .next d ∧ d.status = statusDone ∧
      timeOf d.outRec = civil (secs (timeOf s.inRec) - 900 * offsetOf s.inRec) ∧
      d.outRec.tzPresent = 1 ∧ d.outRec.tzQuarters = 0 ∧
      (offsetOf s.inRec = 0 → timeOf d.outRec = timeOf s.inRec)

/-- 42_date.md R171 (b), its first three sentences on TZ 0x00 and the one on TZ 0x80: DECDATE's record encodes back to the string,
but for a negative zero, which is written "00". -/
def Obligations.DecodedUtcDateEncodesBack : Prop :=
  ∀ s d : State, exec .decdate s = .next d → d.status = statusDone → (tzOctet s.inHex = 0x00 ∨ tzOctet s.inHex = 0x80) →
    Fits s.config.maxHex s.inHex.length →
    ∃ e : State, exec .encdate { d with inRec := d.outRec } = .next e ∧ e.status = statusDone ∧
      e.outHex = s.inHex.take 12 ++ ['0', '0'] ∧ (tzOctet s.inHex = 0x00 → e.outHex = s.inHex)

/-- 42_date.md R171 (c): ENCDATE's output has length 14, and every character of its first 12 is a decimal digit. -/
def Obligations.EncdateOutputShape : Prop :=
  ∀ s e : State, exec .encdate s = .next e → e.status = statusDone →
    e.outHex.length = 14 ∧ ∀ k, k < 12 → IsDecimal (at' e.outHex k)

/-! ### Number codec -/

/-- 43_number.md R190: DECNUM. (A text over MAX_TEXT: ResultOverCapacityIsMalformed.) -/
def Obligations.DecnumReadsSemiOctets : Prop :=
  encode .decnum = 0x00000030 ∧ ∀ s : State,
    (HexOperand s.inHex → ¬ Exceeds s.config.maxText (numberText s.inHex).length →
      exec .decnum s = .next { s with status := statusDone, outText := numberText s.inHex }) ∧
    (HexOperand s.inHex → (numberText s.inHex).length = s.inHex.length ∨
      (numberText s.inHex).length + 1 = s.inHex.length) ∧
    (¬ HexOperand s.inHex → exec .decnum s = failed s .malformed)

/-- 43_number.md R192: ENCNUM. -/
def Obligations.EncnumWritesSemiOctets : Prop :=
  encode .encnum = 0x00000031 ∧ ∀ s : State,
    (AllDigits s.inText → ¬ Exceeds s.config.maxHex (s.inText.length + s.inText.length % 2) →
      exec .encnum s = .next { s with
        status := statusDone
        outHex := swapped (if s.inText.length % 2 = 1 then s.inText ++ ['F'] else s.inText) }) ∧
    (AllDigits s.inText → Exceeds s.config.maxHex (s.inText.length + s.inText.length % 2) →
      exec .encnum s = failed s .malformed) ∧
    (¬ AllDigits s.inText → exec .encnum s = failed s .malformed)

/-- 43_number.md R193: (a), (b), (c) what ENCNUM writes DECNUM reads back, but for a final 'F' after an even count; (d) what DECNUM
reads ENCNUM writes back. The operands are within their capacities, as the ports keep them (10_state.md R22). -/
def Obligations.NumberRoundTrips : Prop :=
  (∀ s e : State, Fits s.config.maxText s.inText.length → exec .encnum s = .next e → e.status = statusDone →
    ∃ d : State, exec .decnum { e with inHex := e.outHex } = .next d ∧ d.status = statusDone ∧
      (AllDecimal s.inText → d.outText = s.inText) ∧
      (s.inText.getLast? ≠ some 'F' → d.outText = s.inText) ∧
      (s.inText.getLast? = some 'F' → s.inText.length % 2 = 0 → d.outText = s.inText.dropLast) ∧
      (s.inText.getLast? = some 'F' → s.inText.length % 2 = 1 → d.outText = s.inText)) ∧
  (∀ s d : State, exec .decnum s = .next d → d.status = statusDone → Fits s.config.maxHex s.inHex.length →
    ∃ e : State, exec .encnum { d with inText := d.outText } = .next e ∧ e.status = statusDone ∧ e.outHex = s.inHex)

/-! ### Type-Of-Address codec -/

/-- 44_toa.md R210: DECTOA, with its checks in order. -/
def Obligations.DectoaReadsTonAndNpi : Prop :=
  encode .dectoa = 0x00000040 ∧ ∀ s : State,
    (¬ (HexOperand s.inHex ∧ s.inHex.length = 2) → exec .dectoa s = failed s .malformed) ∧
    (HexOperand s.inHex → s.inHex.length = 2 → octetAt s.inHex 0 < 128 → exec .dectoa s = failed s .validation) ∧
    (HexOperand s.inHex → s.inHex.length = 2 → 128 ≤ octetAt s.inHex 0 →
      ¬ NpiDefined s.config (octetAt s.inHex 0 % 16) → exec .dectoa s = failed s .validation) ∧
    (HexOperand s.inHex → s.inHex.length = 2 → 128 ≤ octetAt s.inHex 0 → NpiDefined s.config (octetAt s.inHex 0 % 16) →
      exec .dectoa s = .next { s with
        status := statusDone
        outRec := { Rec.zero with
          ton := BitVec.ofNat 8 (octetAt s.inHex 0 / 16 % 8), npi := BitVec.ofNat 8 (octetAt s.inHex 0 % 16) } })

/-- 44_toa.md R212: ENCTOA. (A MAX_HEX below 2: ResultOverCapacityIsMalformed.) -/
def Obligations.EnctoaWritesTonAndNpi : Prop :=
  encode .enctoa = 0x00000041 ∧ ∀ s : State,
    (s.inRec.ton.toNat ≤ 7 → NpiDefined s.config s.inRec.npi.toNat → ¬ Exceeds s.config.maxHex 2 →
      exec .enctoa s = .next { s with
        status := statusDone, outHex := [digitOf (8 + s.inRec.ton.toNat), digitOf s.inRec.npi.toNat] }) ∧
    (7 < s.inRec.ton.toNat → exec .enctoa s = failed s .validation) ∧
    (¬ NpiDefined s.config s.inRec.npi.toNat → exec .enctoa s = failed s .validation)

/-- 44_toa.md R213: (a) ENCTOA then DECTOA gives the codes back, (b) DECTOA then ENCTOA gives the string back, (c) under the
default NPI_DEFINED DECTOA accepts exactly 80 of the 256 octet values; (a) and (b) where a hex buffer holds two digits (D8, log 11). -/
def Obligations.TypeOfAddressLaws : Prop :=
  (∀ s : State, s.inRec.ton.toNat ≤ 7 → NpiDefined s.config s.inRec.npi.toNat → Fits s.config.maxHex 2 →
    ∃ e d : State, exec .enctoa s = .next e ∧ exec .dectoa { e with inHex := e.outHex } = .next d ∧
      d.status = statusDone ∧ d.outRec.ton = s.inRec.ton ∧ d.outRec.npi = s.inRec.npi) ∧
  (∀ s d : State, Fits s.config.maxHex s.inHex.length → exec .dectoa s = .next d → d.status = statusDone →
    ∃ e : State, exec .enctoa { d with inRec := d.outRec } = .next e ∧ e.status = statusDone ∧ e.outHex = s.inHex) ∧
  ((List.range 256).filter fun b =>
    match exec .dectoa { State.reset with inHex := [digitOf (b / 16), digitOf (b % 16)] } with
    | .next t => t.status == 2
    | .fault _ => false
    | .refused _ => false).length = 80

/-- 10_state.md R33, R34, 44_toa.md R211: every TON code has a name under lawful tables, and by default exactly the codes of
NPI_DEFINED have one. -/
def Obligations.ToaNamesFollowFromCodes : Prop :=
  (∀ c : Config, c.wellFormed = true → ∀ code, (c.tonName code).isSome = true) ∧
  (∀ code : Nibble, (defaultConfig.npiName code).isSome = true ↔ code ∈ defaultConfig.npiDefined) ∧
  defaultConfig.tonName 0b001 = some .international ∧ defaultConfig.npiName 0b0001 = some .isdn
end

