-- ==== Sys2Proof/Laws/State.lean ====
section
/-!
SUPPORT. For every update of the state, what each field is after it. Every update of a meaning or of the host's port is one of
these.
-/

namespace Sys2Proof.Laws

open Sys2Proof Sys2Proof.Machine

variable (s : State)

@[simp] theorem clearResults_cmd : s.clearResults.cmd = s.cmd := rfl
@[simp] theorem clearResults_status : s.clearResults.status = s.status := rfl
@[simp] theorem clearResults_errcode : s.clearResults.errcode = s.errcode := rfl
@[simp] theorem clearResults_inHex : s.clearResults.inHex = s.inHex := rfl
@[simp] theorem clearResults_inText : s.clearResults.inText = s.inText := rfl
@[simp] theorem clearResults_inRec : s.clearResults.inRec = s.inRec := rfl
@[simp] theorem clearResults_outHex : s.clearResults.outHex = [] := rfl
@[simp] theorem clearResults_outText : s.clearResults.outText = [] := rfl
@[simp] theorem clearResults_outRec : s.clearResults.outRec = Rec.zero := rfl
@[simp] theorem clearResults_config : s.clearResults.config = s.config := rfl
@[simp] theorem clearResults_host : s.clearResults.host = s.host := rfl
@[simp] theorem clearResults_log : s.clearResults.log = s.log := rfl
@[simp] theorem clearResults_delay : s.clearResults.delay = s.delay := rfl
@[simp] theorem clearResults_issued : s.clearResults.issued = s.issued := rfl

@[simp] theorem startWith_cmd (w : Word) (d : Nat) : (s.startWith w d).cmd = w := rfl
@[simp] theorem startWith_status (w : Word) (d : Nat) : (s.startWith w d).status = statusBusy := rfl
@[simp] theorem startWith_errcode (w : Word) (d : Nat) : (s.startWith w d).errcode = errNone := rfl
@[simp] theorem startWith_inHex (w : Word) (d : Nat) : (s.startWith w d).inHex = s.inHex := rfl
@[simp] theorem startWith_inText (w : Word) (d : Nat) : (s.startWith w d).inText = s.inText := rfl
@[simp] theorem startWith_inRec (w : Word) (d : Nat) : (s.startWith w d).inRec = s.inRec := rfl
@[simp] theorem startWith_outHex (w : Word) (d : Nat) : (s.startWith w d).outHex = [] := rfl
@[simp] theorem startWith_outText (w : Word) (d : Nat) : (s.startWith w d).outText = [] := rfl
@[simp] theorem startWith_outRec (w : Word) (d : Nat) : (s.startWith w d).outRec = Rec.zero := rfl
@[simp] theorem startWith_config (w : Word) (d : Nat) : (s.startWith w d).config = s.config := rfl
@[simp] theorem startWith_host (w : Word) (d : Nat) : (s.startWith w d).host = s.host := rfl
@[simp] theorem startWith_log (w : Word) (d : Nat) : (s.startWith w d).log = s.log := rfl
@[simp] theorem startWith_delay (w : Word) (d : Nat) : (s.startWith w d).delay = d := rfl
@[simp] theorem startWith_issued (w : Word) (d : Nat) : (s.startWith w d).issued = s.issued := rfl

@[simp] theorem beginCommand_cmd (w : Word) : (s.beginCommand w).cmd = w := rfl
@[simp] theorem beginCommand_status (w : Word) : (s.beginCommand w).status = statusBusy := rfl
@[simp] theorem beginCommand_errcode (w : Word) : (s.beginCommand w).errcode = errNone := rfl
@[simp] theorem beginCommand_inHex (w : Word) : (s.beginCommand w).inHex = s.inHex := rfl
@[simp] theorem beginCommand_inText (w : Word) : (s.beginCommand w).inText = s.inText := rfl
@[simp] theorem beginCommand_inRec (w : Word) : (s.beginCommand w).inRec = s.inRec := rfl
@[simp] theorem beginCommand_outHex (w : Word) : (s.beginCommand w).outHex = [] := rfl
@[simp] theorem beginCommand_outText (w : Word) : (s.beginCommand w).outText = [] := rfl
@[simp] theorem beginCommand_outRec (w : Word) : (s.beginCommand w).outRec = Rec.zero := rfl
@[simp] theorem beginCommand_config (w : Word) : (s.beginCommand w).config = s.config := rfl
@[simp] theorem beginCommand_host (w : Word) : (s.beginCommand w).host = s.host := rfl
@[simp] theorem beginCommand_log (w : Word) : (s.beginCommand w).log = s.log := rfl
@[simp] theorem beginCommand_delay (w : Word) : (s.beginCommand w).delay = Config.freeBusyDelay s.issued := rfl
@[simp] theorem beginCommand_issued (w : Word) : (s.beginCommand w).issued = s.issued + 1 := rfl

@[simp] theorem raise_cmd (k : ErrKind) : (s.raise k).cmd = s.cmd := rfl
@[simp] theorem raise_status (k : ErrKind) : (s.raise k).status = statusError := rfl
@[simp] theorem raise_errcode (k : ErrKind) : (s.raise k).errcode = errCode k := rfl
@[simp] theorem raise_inHex (k : ErrKind) : (s.raise k).inHex = s.inHex := rfl
@[simp] theorem raise_inText (k : ErrKind) : (s.raise k).inText = s.inText := rfl
@[simp] theorem raise_inRec (k : ErrKind) : (s.raise k).inRec = s.inRec := rfl
@[simp] theorem raise_outHex (k : ErrKind) : (s.raise k).outHex = s.outHex := rfl
@[simp] theorem raise_outText (k : ErrKind) : (s.raise k).outText = s.outText := rfl
@[simp] theorem raise_outRec (k : ErrKind) : (s.raise k).outRec = s.outRec := rfl
@[simp] theorem raise_config (k : ErrKind) : (s.raise k).config = s.config := rfl
@[simp] theorem raise_host (k : ErrKind) : (s.raise k).host = s.host := rfl
@[simp] theorem raise_log (k : ErrKind) : (s.raise k).log = s.log := rfl
@[simp] theorem raise_delay (k : ErrKind) : (s.raise k).delay = s.delay := rfl
@[simp] theorem raise_issued (k : ErrKind) : (s.raise k).issued = s.issued := rfl

@[simp] theorem finishHex_ok_cmd (v : HexString) : (s.finishHex (.ok v)).cmd = s.cmd := rfl
@[simp] theorem finishHex_ok_status (v : HexString) : (s.finishHex (.ok v)).status = statusDone := rfl
@[simp] theorem finishHex_ok_errcode (v : HexString) : (s.finishHex (.ok v)).errcode = s.errcode := rfl
@[simp] theorem finishHex_ok_inHex (v : HexString) : (s.finishHex (.ok v)).inHex = s.inHex := rfl
@[simp] theorem finishHex_ok_inText (v : HexString) : (s.finishHex (.ok v)).inText = s.inText := rfl
@[simp] theorem finishHex_ok_inRec (v : HexString) : (s.finishHex (.ok v)).inRec = s.inRec := rfl
@[simp] theorem finishHex_ok_outHex (v : HexString) : (s.finishHex (.ok v)).outHex = v := rfl
@[simp] theorem finishHex_ok_outText (v : HexString) : (s.finishHex (.ok v)).outText = s.outText := rfl
@[simp] theorem finishHex_ok_outRec (v : HexString) : (s.finishHex (.ok v)).outRec = s.outRec := rfl
@[simp] theorem finishHex_ok_config (v : HexString) : (s.finishHex (.ok v)).config = s.config := rfl
@[simp] theorem finishHex_ok_host (v : HexString) : (s.finishHex (.ok v)).host = s.host := rfl
@[simp] theorem finishHex_ok_log (v : HexString) : (s.finishHex (.ok v)).log = s.log := rfl
@[simp] theorem finishHex_ok_delay (v : HexString) : (s.finishHex (.ok v)).delay = s.delay := rfl
@[simp] theorem finishHex_ok_issued (v : HexString) : (s.finishHex (.ok v)).issued = s.issued := rfl

@[simp] theorem finishText_ok_cmd (v : Text) : (s.finishText (.ok v)).cmd = s.cmd := rfl
@[simp] theorem finishText_ok_status (v : Text) : (s.finishText (.ok v)).status = statusDone := rfl
@[simp] theorem finishText_ok_errcode (v : Text) : (s.finishText (.ok v)).errcode = s.errcode := rfl
@[simp] theorem finishText_ok_inHex (v : Text) : (s.finishText (.ok v)).inHex = s.inHex := rfl
@[simp] theorem finishText_ok_inText (v : Text) : (s.finishText (.ok v)).inText = s.inText := rfl
@[simp] theorem finishText_ok_inRec (v : Text) : (s.finishText (.ok v)).inRec = s.inRec := rfl
@[simp] theorem finishText_ok_outHex (v : Text) : (s.finishText (.ok v)).outHex = s.outHex := rfl
@[simp] theorem finishText_ok_outText (v : Text) : (s.finishText (.ok v)).outText = v := rfl
@[simp] theorem finishText_ok_outRec (v : Text) : (s.finishText (.ok v)).outRec = s.outRec := rfl
@[simp] theorem finishText_ok_config (v : Text) : (s.finishText (.ok v)).config = s.config := rfl
@[simp] theorem finishText_ok_host (v : Text) : (s.finishText (.ok v)).host = s.host := rfl
@[simp] theorem finishText_ok_log (v : Text) : (s.finishText (.ok v)).log = s.log := rfl
@[simp] theorem finishText_ok_delay (v : Text) : (s.finishText (.ok v)).delay = s.delay := rfl
@[simp] theorem finishText_ok_issued (v : Text) : (s.finishText (.ok v)).issued = s.issued := rfl

@[simp] theorem finishRec_ok_cmd (v : Rec) : (s.finishRec (.ok v)).cmd = s.cmd := rfl
@[simp] theorem finishRec_ok_status (v : Rec) : (s.finishRec (.ok v)).status = statusDone := rfl
@[simp] theorem finishRec_ok_errcode (v : Rec) : (s.finishRec (.ok v)).errcode = s.errcode := rfl
@[simp] theorem finishRec_ok_inHex (v : Rec) : (s.finishRec (.ok v)).inHex = s.inHex := rfl
@[simp] theorem finishRec_ok_inText (v : Rec) : (s.finishRec (.ok v)).inText = s.inText := rfl
@[simp] theorem finishRec_ok_inRec (v : Rec) : (s.finishRec (.ok v)).inRec = s.inRec := rfl
@[simp] theorem finishRec_ok_outHex (v : Rec) : (s.finishRec (.ok v)).outHex = s.outHex := rfl
@[simp] theorem finishRec_ok_outText (v : Rec) : (s.finishRec (.ok v)).outText = s.outText := rfl
@[simp] theorem finishRec_ok_outRec (v : Rec) : (s.finishRec (.ok v)).outRec = v := rfl
@[simp] theorem finishRec_ok_config (v : Rec) : (s.finishRec (.ok v)).config = s.config := rfl
@[simp] theorem finishRec_ok_host (v : Rec) : (s.finishRec (.ok v)).host = s.host := rfl
@[simp] theorem finishRec_ok_log (v : Rec) : (s.finishRec (.ok v)).log = s.log := rfl
@[simp] theorem finishRec_ok_delay (v : Rec) : (s.finishRec (.ok v)).delay = s.delay := rfl
@[simp] theorem finishRec_ok_issued (v : Rec) : (s.finishRec (.ok v)).issued = s.issued := rfl

@[simp] theorem writeRec_cmd (r : Rec) : (s.writeRec r).cmd = s.cmd := rfl
@[simp] theorem writeRec_status (r : Rec) : (s.writeRec r).status = s.status := rfl
@[simp] theorem writeRec_errcode (r : Rec) : (s.writeRec r).errcode = s.errcode := rfl
@[simp] theorem writeRec_inHex (r : Rec) : (s.writeRec r).inHex = s.inHex := rfl
@[simp] theorem writeRec_inText (r : Rec) : (s.writeRec r).inText = s.inText := rfl
@[simp] theorem writeRec_inRec (r : Rec) : (s.writeRec r).inRec = r := rfl
@[simp] theorem writeRec_outHex (r : Rec) : (s.writeRec r).outHex = s.outHex := rfl
@[simp] theorem writeRec_outText (r : Rec) : (s.writeRec r).outText = s.outText := rfl
@[simp] theorem writeRec_outRec (r : Rec) : (s.writeRec r).outRec = s.outRec := rfl
@[simp] theorem writeRec_config (r : Rec) : (s.writeRec r).config = s.config := rfl
@[simp] theorem writeRec_host (r : Rec) : (s.writeRec r).host = s.host := rfl
@[simp] theorem writeRec_log (r : Rec) : (s.writeRec r).log = s.log := rfl
@[simp] theorem writeRec_delay (r : Rec) : (s.writeRec r).delay = s.delay := rfl
@[simp] theorem writeRec_issued (r : Rec) : (s.writeRec r).issued = s.issued := rfl

@[simp] theorem observe_cmd (r : Reg) : (s.observe r).cmd = s.cmd := rfl
@[simp] theorem observe_status (r : Reg) : (s.observe r).status = s.status := rfl
@[simp] theorem observe_errcode (r : Reg) : (s.observe r).errcode = s.errcode := rfl
@[simp] theorem observe_inHex (r : Reg) : (s.observe r).inHex = s.inHex := rfl
@[simp] theorem observe_inText (r : Reg) : (s.observe r).inText = s.inText := rfl
@[simp] theorem observe_inRec (r : Reg) : (s.observe r).inRec = s.inRec := rfl
@[simp] theorem observe_outHex (r : Reg) : (s.observe r).outHex = s.outHex := rfl
@[simp] theorem observe_outText (r : Reg) : (s.observe r).outText = s.outText := rfl
@[simp] theorem observe_outRec (r : Reg) : (s.observe r).outRec = s.outRec := rfl
@[simp] theorem observe_config (r : Reg) : (s.observe r).config = s.config := rfl
@[simp] theorem observe_host (r : Reg) : (s.observe r).host = s.host := rfl
@[simp] theorem observe_log (r : Reg) : (s.observe r).log = s.log ++ [⟨r, s.readReg r⟩] := rfl
@[simp] theorem observe_delay (r : Reg) : (s.observe r).delay = s.delay := rfl
@[simp] theorem observe_issued (r : Reg) : (s.observe r).issued = s.issued := rfl

@[simp] theorem hardReset_cmd : s.hardReset.cmd = 0 := rfl
@[simp] theorem hardReset_status : s.hardReset.status = statusIdle := rfl
@[simp] theorem hardReset_errcode : s.hardReset.errcode = errNone := rfl
@[simp] theorem hardReset_inHex : s.hardReset.inHex = [] := rfl
@[simp] theorem hardReset_inText : s.hardReset.inText = [] := rfl
@[simp] theorem hardReset_inRec : s.hardReset.inRec = Rec.zero := rfl
@[simp] theorem hardReset_outHex : s.hardReset.outHex = [] := rfl
@[simp] theorem hardReset_outText : s.hardReset.outText = [] := rfl
@[simp] theorem hardReset_outRec : s.hardReset.outRec = Rec.zero := rfl
@[simp] theorem hardReset_config : s.hardReset.config = s.config := rfl
@[simp] theorem hardReset_host : s.hardReset.host = s.host := rfl
@[simp] theorem hardReset_log : s.hardReset.log = s.log := rfl
@[simp] theorem hardReset_delay : s.hardReset.delay = 0 := rfl
@[simp] theorem hardReset_issued : s.hardReset.issued = s.issued := rfl

@[simp] theorem tick_cmd : s.tick.cmd = s.cmd := by unfold State.tick; split <;> rfl
@[simp] theorem tick_status : s.tick.status = s.status := by unfold State.tick; split <;> rfl
@[simp] theorem tick_errcode : s.tick.errcode = s.errcode := by unfold State.tick; split <;> rfl
@[simp] theorem tick_inHex : s.tick.inHex = s.inHex := by unfold State.tick; split <;> rfl
@[simp] theorem tick_inText : s.tick.inText = s.inText := by unfold State.tick; split <;> rfl
@[simp] theorem tick_inRec : s.tick.inRec = s.inRec := by unfold State.tick; split <;> rfl
@[simp] theorem tick_outHex : s.tick.outHex = s.outHex := by unfold State.tick; split <;> rfl
@[simp] theorem tick_outText : s.tick.outText = s.outText := by unfold State.tick; split <;> rfl
@[simp] theorem tick_outRec : s.tick.outRec = s.outRec := by unfold State.tick; split <;> rfl
@[simp] theorem tick_config : s.tick.config = s.config := by unfold State.tick; split <;> rfl
@[simp] theorem tick_host : s.tick.host = s.host := by unfold State.tick; split <;> rfl
@[simp] theorem tick_log : s.tick.log = s.log := by unfold State.tick; split <;> rfl
@[simp] theorem tick_issued : s.tick.issued = s.issued := by unfold State.tick; split <;> rfl

@[simp] theorem writeHex_cmd (h : List Char) : (s.writeHex h).cmd = s.cmd := by unfold State.writeHex; split <;> rfl
@[simp] theorem writeHex_status (h : List Char) : (s.writeHex h).status = s.status := by unfold State.writeHex; split <;> rfl
@[simp] theorem writeHex_errcode (h : List Char) : (s.writeHex h).errcode = s.errcode := by unfold State.writeHex; split <;> rfl
@[simp] theorem writeHex_inText (h : List Char) : (s.writeHex h).inText = s.inText := by unfold State.writeHex; split <;> rfl
@[simp] theorem writeHex_inRec (h : List Char) : (s.writeHex h).inRec = s.inRec := by unfold State.writeHex; split <;> rfl
@[simp] theorem writeHex_outHex (h : List Char) : (s.writeHex h).outHex = s.outHex := by unfold State.writeHex; split <;> rfl
@[simp] theorem writeHex_outText (h : List Char) : (s.writeHex h).outText = s.outText := by unfold State.writeHex; split <;> rfl
@[simp] theorem writeHex_outRec (h : List Char) : (s.writeHex h).outRec = s.outRec := by unfold State.writeHex; split <;> rfl
@[simp] theorem writeHex_config (h : List Char) : (s.writeHex h).config = s.config := by unfold State.writeHex; split <;> rfl
@[simp] theorem writeHex_host (h : List Char) : (s.writeHex h).host = s.host := by unfold State.writeHex; split <;> rfl
@[simp] theorem writeHex_log (h : List Char) : (s.writeHex h).log = s.log := by unfold State.writeHex; split <;> rfl
@[simp] theorem writeHex_delay (h : List Char) : (s.writeHex h).delay = s.delay := by unfold State.writeHex; split <;> rfl
@[simp] theorem writeHex_issued (h : List Char) : (s.writeHex h).issued = s.issued := by unfold State.writeHex; split <;> rfl

@[simp] theorem writeText_cmd (v : List Nat) : (s.writeText v).cmd = s.cmd := by unfold State.writeText; split <;> rfl
@[simp] theorem writeText_status (v : List Nat) : (s.writeText v).status = s.status := by unfold State.writeText; split <;> rfl
@[simp] theorem writeText_errcode (v : List Nat) : (s.writeText v).errcode = s.errcode := by unfold State.writeText; split <;> rfl
@[simp] theorem writeText_inHex (v : List Nat) : (s.writeText v).inHex = s.inHex := by unfold State.writeText; split <;> rfl
@[simp] theorem writeText_inRec (v : List Nat) : (s.writeText v).inRec = s.inRec := by unfold State.writeText; split <;> rfl
@[simp] theorem writeText_outHex (v : List Nat) : (s.writeText v).outHex = s.outHex := by unfold State.writeText; split <;> rfl
@[simp] theorem writeText_outText (v : List Nat) : (s.writeText v).outText = s.outText := by unfold State.writeText; split <;> rfl
@[simp] theorem writeText_outRec (v : List Nat) : (s.writeText v).outRec = s.outRec := by unfold State.writeText; split <;> rfl
@[simp] theorem writeText_config (v : List Nat) : (s.writeText v).config = s.config := by unfold State.writeText; split <;> rfl
@[simp] theorem writeText_host (v : List Nat) : (s.writeText v).host = s.host := by unfold State.writeText; split <;> rfl
@[simp] theorem writeText_log (v : List Nat) : (s.writeText v).log = s.log := by unfold State.writeText; split <;> rfl
@[simp] theorem writeText_delay (v : List Nat) : (s.writeText v).delay = s.delay := by unfold State.writeText; split <;> rfl
@[simp] theorem writeText_issued (v : List Nat) : (s.writeText v).issued = s.issued := by unfold State.writeText; split <;> rfl

@[simp] theorem finishHex_error (k : ErrKind) : s.finishHex (.error k) = s.raise k := rfl
@[simp] theorem finishText_error (k : ErrKind) : s.finishText (.error k) = s.raise k := rfl
@[simp] theorem finishRec_error (k : ErrKind) : s.finishRec (.error k) = s.raise k := rfl

theorem tick_delay : s.tick.delay = if s.isBusy then s.delay - 1 else s.delay := by
  unfold State.tick; split <;> rfl

theorem writeHex_inHex (h : List Char) :
    (s.writeHex h).inHex = if overCapacity s.config.maxHex h.length then s.inHex else h := by
  unfold State.writeHex; split <;> rfl

theorem writeText_inText (v : List Nat) :
    (s.writeText v).inText =
      if overCapacity s.config.maxText v.length || !v.all isScalar then s.inText else v.map Char.ofNat := by
  unfold State.writeText; split <;> rfl

@[simp] theorem isBusy_iff : s.isBusy = true ↔ s.status = statusBusy := by simp [State.isBusy]

@[simp] theorem isBusy_false : s.isBusy = false ↔ s.status ≠ statusBusy := by simp [State.isBusy]

theorem unitReady_iff : s.unitReady = true ↔ s.status = statusBusy ∧ s.delay = 0 := by simp [State.unitReady]

end Sys2Proof.Laws
end

