-- ==== Sys2Proof/Laws/Operands.lean ====
section
/-!
SUPPORT. What each operand form of Machine/Operands.lean says: hex digits and their values, the check of a hex operand, pairs of
digits, octets and septets.
-/

namespace Sys2Proof.Laws

open Sys2Proof Sys2Proof.Machine

theorem isHex_iff {c : Char} : isHex c = true ↔ c ∈ hexDigits := by simp [isHex]

/-- A property of the sixteen digits holds of every hex digit. -/
theorem forall_isHex {p : Char → Prop} (h : ∀ c ∈ hexDigits, p c) {c : Char} (hc : isHex c = true) : p c :=
  h c (isHex_iff.mp hc)

theorem hexVal_lt {c : Char} (hc : isHex c = true) : hexVal c < 16 :=
  List.idxOf_lt_length_of_mem (isHex_iff.mp hc)

@[simp] theorem isHex_hexChar (v : Nibble) : isHex (hexChar v) = true := by revert v; decide

@[simp] theorem hexVal_hexChar (v : Nibble) : hexVal (hexChar v) = v.toNat := by revert v; decide

theorem hexChar_hexVal {c : Char} (hc : isHex c = true) : hexChar (BitVec.ofNat 4 (hexVal c)) = c := by
  have h := hexVal_lt hc
  have h2 : hexVal c % 16 = hexVal c := Nat.mod_eq_of_lt h
  simp only [hexChar, BitVec.toNat_ofNat, Nat.reducePow, h2]
  rw [List.getD_eq_getElem _ _ (by exact h)]
  exact List.getElem_idxOf (by exact h)

/-- Pairs of uppercase hex digits: what `checkHex` accepts (40_nibble_octet.md R101) and what OUT_HEX holds (10_state.md R22). -/
def HexPairs (h : HexString) : Prop := (∀ c ∈ h, isHex c = true) ∧ h.length % 2 = 0

theorem checkHex_ok_iff {h : HexString} : checkHex h = .ok () ↔ HexPairs h := by
  unfold checkHex HexPairs
  split
  · simp_all
  · split <;> simp_all

/-- A refused hex operand is malformed, and nothing else. -/
theorem checkHex_cases (h : HexString) :
    (checkHex h = .ok () ∧ HexPairs h) ∨ (checkHex h = .error .malformed ∧ ¬ HexPairs h) := by
  by_cases hc : HexPairs h
  · exact .inl ⟨checkHex_ok_iff.mpr hc, hc⟩
  · refine .inr ⟨?_, hc⟩
    unfold checkHex
    split
    · rfl
    · split
      · rfl
      · exact absurd (by simp_all [HexPairs]) hc

/-- All that the capacity check can answer (92_eei_decisions.md D8). -/
theorem checkCapacity_cases (cap : Option Nat) (len : Nat) :
    (checkCapacity cap len = .ok () ∧ Fits cap len) ∨ (checkCapacity cap len = .error .malformed ∧ ¬ Fits cap len) := by
  cases cap with
  | none => exact .inl ⟨rfl, fun _ h => nomatch h⟩
  | some m => by_cases h : m < len <;> simp [checkCapacity, overCapacity, Fits, h]; omega

theorem checkCapacity_ok {cap : Option Nat} {len : Nat} (h : Fits cap len) : checkCapacity cap len = .ok () := by
  rcases checkCapacity_cases cap len with ⟨e, -⟩ | ⟨-, n⟩
  · exact e
  · exact absurd h n

theorem checkCapacity_error {cap : Option Nat} {len : Nat} (h : ¬ Fits cap len) :
    checkCapacity cap len = .error .malformed := by
  rcases checkCapacity_cases cap len with ⟨-, p⟩ | ⟨e, -⟩
  · exact absurd p h
  · exact e

theorem bcd2_ok_iff {a b : Char} {n : Nat} :
    bcd2 a b = .ok n ↔ isDecimal a = true ∧ isDecimal b = true ∧ 10 * hexVal a + hexVal b = n := by
  unfold bcd2
  split <;> simp_all

theorem bcd2_error {a b : Char} {k : ErrKind} (h : bcd2 a b = .error k) : k = .malformed := by
  unfold bcd2 at h
  split at h <;> simp_all

/-- Induction on the pairs of digits of a hex string. -/
theorem pairInduction {p : HexString → Prop} (nil : p []) (one : ∀ c, p [c])
    (pair : ∀ a b rest, p rest → p (a :: b :: rest)) : ∀ h, p h
  | [] => nil
  | [c] => one c
  | a :: b :: rest => pair a b rest (pairInduction nil one pair rest)

theorem swapNibbles_length (h : HexString) : (swapNibbles h).length = 2 * (h.length / 2) := by
  induction h using pairInduction with
  | nil => simp [swapNibbles]
  | one c => simp [swapNibbles]
  | pair a b rest ih => simp [swapNibbles, ih]; omega

theorem reverseOctets_length (h : HexString) : (reverseOctets h).length = 2 * (h.length / 2) := by
  induction h using pairInduction with
  | nil => simp [reverseOctets]
  | one c => simp [reverseOctets]
  | pair a b rest ih => simp [reverseOctets, ih]; omega

theorem octets_length (h : HexString) : (octets h).length = h.length / 2 := by
  induction h using pairInduction with
  | nil => simp [octets]
  | one c => simp [octets]
  | pair a b rest ih => simp [octets, ih]; omega

theorem mem_of_mem_swapNibbles {c : Char} {h : HexString} (hc : c ∈ swapNibbles h) : c ∈ h := by
  induction h using pairInduction with
  | nil => simp [swapNibbles] at hc
  | one d => simp [swapNibbles] at hc
  | pair a b rest ih => simp only [swapNibbles, List.mem_cons] at hc ⊢; tauto

theorem mem_of_mem_reverseOctets {c : Char} {h : HexString} (hc : c ∈ reverseOctets h) : c ∈ h := by
  induction h using pairInduction with
  | nil => simp [reverseOctets] at hc
  | one d => simp [reverseOctets] at hc
  | pair a b rest ih =>
    simp only [reverseOctets, List.mem_append, List.mem_cons, List.not_mem_nil, or_false] at hc ⊢
    tauto

@[simp] theorem unpack_length (o : List Octet) : (unpack o).length = 8 * o.length / 7 := by simp [unpack]

@[simp] theorem pack_length (i : List Septet) : (pack i).length = (7 * i.length + 7) / 8 := by simp [pack]

@[simp] theorem hexOf_length (o : List Octet) : (hexOf o).length = 2 * o.length := by
  induction o with
  | nil => rfl
  | cons a rest ih => simp [hexOf, hexOctet, ih]; omega

theorem isHex_of_mem_hexOf {c : Char} {o : List Octet} (hc : c ∈ hexOf o) : isHex c = true := by
  induction o with
  | nil => simp [hexOf] at hc
  | cons a rest ih =>
    simp only [hexOf, hexOctet, List.mem_append, List.mem_cons, List.not_mem_nil, or_false] at hc
    rcases hc with (rfl | rfl) | hc
    · simp
    · simp
    · exact ih hc

theorem isHex_of_mem_dec2 {c : Char} {v : Nat} (hc : c ∈ dec2 v) : isHex c = true := by
  simp only [dec2, List.mem_cons, List.not_mem_nil, or_false] at hc
  rcases hc with rfl | rfl <;> simp

/-- The octets' number fits their bits (20_memory.md R52). -/
theorem octetsValue_lt (o : List Octet) : octetsValue o < 2 ^ (8 * o.length) := by
  induction o with
  | nil => simp [octetsValue]
  | cons a rest ih =>
    have h2 : 2 ^ (8 * (rest.length + 1)) = 2 ^ 8 * 2 ^ (8 * rest.length) := by rw [← pow_add]; congr 1; omega
    simp only [octetsValue, List.length_cons, h2]
    have := a.isLt
    omega

/-- The septets' number fits their bits (41_gsm7.md R125: "bits 7m .. 8n-1 of V are zero"). -/
theorem septetsValue_lt (i : List Septet) : septetsValue i < 2 ^ (7 * i.length) := by
  induction i with
  | nil => simp [septetsValue]
  | cons a rest ih =>
    have h2 : 2 ^ (7 * (rest.length + 1)) = 2 ^ 7 * 2 ^ (7 * rest.length) := by rw [← pow_add]; congr 1; omega
    simp only [septetsValue, List.length_cons, h2]
    have := a.isLt
    omega

end Sys2Proof.Laws
end

