-- ==== Sys2Proof/Laws/Exec.lean ====
section
/-!
SUPPORT. What each command's function can answer, and once for all commands what `exec` can do.
-/

namespace Sys2Proof.Laws

open Sys2Proof Sys2Proof.Machine

theorem hexPairs_nil : HexPairs [] := ⟨by simp, rfl⟩

theorem hexPairs_swapNibbles {h : HexString} (hc : ∀ c ∈ h, isHex c = true) : HexPairs (swapNibbles h) :=
  ⟨fun _ m => hc _ (mem_of_mem_swapNibbles m), by rw [swapNibbles_length]; omega⟩

theorem hexPairs_reverseOctets {h : HexString} (hc : ∀ c ∈ h, isHex c = true) : HexPairs (reverseOctets h) :=
  ⟨fun _ m => hc _ (mem_of_mem_reverseOctets m), by rw [reverseOctets_length]; omega⟩

theorem hexPairs_hexOf (o : List Octet) : HexPairs (hexOf o) :=
  ⟨fun _ m => isHex_of_mem_hexOf m, by rw [hexOf_length]; omega⟩

theorem HexPairs.two_mul_half {h : HexString} (p : HexPairs h) : 2 * (h.length / 2) = h.length := by have := p.2; omega

theorem revo_cases (h : HexString) :
    (revo h = .ok (reverseOctets h) ∧ HexPairs h) ∨ (revo h = .error .malformed ∧ ¬ HexPairs h) := by
  rcases checkHex_cases h with ⟨e, p⟩ | ⟨e, p⟩ <;> simp [revo, e, bind, Except.bind, pure, Except.pure, p]

theorem swpn_cases (h : HexString) :
    (swpn h = .ok (swapNibbles h) ∧ HexPairs h) ∨ (swpn h = .error .malformed ∧ ¬ HexPairs h) := by
  rcases checkHex_cases h with ⟨e, p⟩ | ⟨e, p⟩ <;> simp [swpn, e, bind, Except.bind, pure, Except.pure, p]

theorem decnum_cases (c : Config) (h : HexString) :
    (∃ v, decnum c h = .ok v ∧ Fits c.maxText v.length) ∨ decnum c h = .error .malformed := by
  rcases checkHex_cases h with ⟨e, -⟩ | ⟨e, -⟩ <;> simp only [decnum, e, bind, Except.bind, pure, Except.pure]
  · generalize (if (swapNibbles h).getLast? = some filler then (swapNibbles h).dropLast else swapNibbles h) = d
    rcases checkCapacity_cases c.maxText d.length with ⟨e2, p⟩ | ⟨e2, -⟩ <;> simp [e2]
    exact p
  · exact .inr trivial

theorem dec7_cases (c : Config) (strip : Bool) (h : HexString) :
    (∃ v, dec7 c strip h = .ok v ∧ Fits c.maxText v.length) ∨ dec7 c strip h = .error .malformed := by
  rcases checkHex_cases h with ⟨e, -⟩ | ⟨e, -⟩ <;> simp only [dec7, e, bind, Except.bind, pure, Except.pure]
  · generalize (if strip = true then _ else _ : Text) = d
    rcases checkCapacity_cases c.maxText d.length with ⟨e2, p⟩ | ⟨e2, -⟩ <;> simp [e2]
    exact p
  · exact .inr trivial

theorem indices_error {c : Config} {t : Text} {k : ErrKind} (e : indices c t = .error k) : k = .encoding := by
  induction t with
  | nil => simp [indices] at e
  | cons ch rest ih =>
    simp only [indices] at e
    split at e
    · simp_all
    · split at e <;> simp_all

theorem enc7_cases (c : Config) (pad : Bool) (t : Text) :
    (∃ o, enc7 c pad t = .ok (hexOf o) ∧ Fits c.maxHex (hexOf o).length) ∨ enc7 c pad t = .error .encoding ∨
      enc7 c pad t = .error .malformed := by
  cases e : indices c t with
  | error k => simp [enc7, e, bind, Except.bind, indices_error e]
  | ok idx =>
    simp only [enc7, e, bind, Except.bind, pure, Except.pure, hexOf_length]
    generalize pack (if pad = true then _ else _) = o
    rcases checkCapacity_cases c.maxHex (2 * o.length) with ⟨e2, p⟩ | ⟨e2, -⟩ <;> simp only [e2]
    · exact .inl ⟨o, rfl, p⟩
    · exact .inr (.inr trivial)

theorem decdate_error {h : HexString} {k : ErrKind} (e : decdate h = .error k) : k = .malformed ∨ k = .validation := by
  rcases checkHex_cases h with ⟨e1, -⟩ | ⟨e1, -⟩ <;>
    simp only [decdate, e1, bind, Except.bind, pure, Except.pure] at e
  · split at e
    · iterate 6
        split at e
        · rename_i x
          obtain rfl := Except.error.inj e
          exact .inl (bcd2_error x)
      split at e <;> simp_all
    · simp_all
  · simp_all

theorem encdate_cases (c : Config) (r : Rec) :
    (∃ v, encdate c r = .ok v ∧ HexPairs v ∧ Fits c.maxHex v.length) ∨ encdate c r = .error .validation ∨
      encdate c r = .error .malformed := by
  simp only [encdate, bind, Except.bind, pure, Except.pure]
  split
  · exact .inr (.inl rfl)
  · split
    · exact .inr (.inl rfl)
    · split
      · exact .inr (.inl rfl)
      · rcases checkCapacity_cases c.maxHex 14 with ⟨e, p⟩ | ⟨e, -⟩ <;> simp only [e]
        · refine .inl ⟨_, rfl, hexPairs_swapNibbles fun ch hc => ?_, by simpa [swapNibbles_length, dec2, hexOctet] using p⟩
          simp only [List.mem_append] at hc
          rcases hc with (((((hc | hc) | hc) | hc) | hc) | hc) | hc
          all_goals first
            | exact isHex_of_mem_dec2 hc
            | exact isHex_of_mem_hexOf (o := [_]) (by simpa [hexOf] using hc)
        · exact .inr (.inr trivial)

theorem encnum_cases (c : Config) (t : Text) :
    (∃ v, encnum c t = .ok v ∧ HexPairs v ∧ Fits c.maxHex v.length) ∨ encnum c t = .error .malformed := by
  simp only [encnum, bind, Except.bind, pure, Except.pure]
  split
  · exact .inr rfl
  · rename_i h
    have hx : ∀ ch ∈ (if t.length % 2 = 1 then t ++ [filler] else t), isHex ch = true := by
      intro ch hc
      split at hc
      · rcases List.mem_append.mp hc with hc | hc
        · simp_all
        · rw [List.mem_singleton.mp hc]; decide
      · simp_all
    have hl : (if t.length % 2 = 1 then t ++ [filler] else t).length % 2 = 0 := by
      split
      · rw [List.length_append, List.length_singleton]; omega
      · omega
    generalize (if t.length % 2 = 1 then t ++ [filler] else t) = d at hx hl
    rcases checkCapacity_cases c.maxHex d.length with ⟨e, p⟩ | ⟨e, -⟩ <;> simp only [e]
    · refine .inl ⟨_, rfl, hexPairs_swapNibbles hx, ?_⟩
      rw [swapNibbles_length, show 2 * (d.length / 2) = d.length by omega]
      exact p
    · exact .inr trivial

theorem dectoa_error {c : Config} {h : HexString} {k : ErrKind} (e : dectoa c h = .error k) :
    k = .malformed ∨ k = .validation := by
  rcases checkHex_cases h with ⟨e1, -⟩ | ⟨e1, -⟩ <;>
    simp only [dectoa, e1, bind, Except.bind, pure, Except.pure] at e
  · split at e
    · split at e
      · simp_all
      · split at e <;> simp_all
    · simp_all
  · simp_all

theorem enctoa_cases (c : Config) (r : Rec) :
    (∃ o, enctoa c r = .ok (hexOf [o]) ∧ Fits c.maxHex (hexOf [o]).length) ∨ enctoa c r = .error .validation ∨
      enctoa c r = .error .malformed := by
  simp only [enctoa, bind, Except.bind, pure, Except.pure]
  split
  · exact .inr (.inl rfl)
  · split
    · exact .inr (.inl rfl)
    · rcases checkCapacity_cases c.maxHex 2 with ⟨e, p⟩ | ⟨e, -⟩ <;> simp only [e]
      · exact .inl ⟨_, rfl, by simpa using p⟩
      · exact .inr (.inr trivial)

/-- All that `exec` can do: it answers a next state, in which the command's own result buffer is written, within its capacity, and
STATUS is DONE, or an error of the command's own is recorded (10_state.md R24, 60_exceptions.md R230, 92_eei_decisions.md D8). -/
theorem exec_cases (i : Instr) (s : State) :
    (∃ k, k ≠ ErrKind.illegalCommand ∧ exec i s = .next (s.raise k)) ∨
    (∃ v, resultBuffer i = .hex ∧ HexPairs v ∧ (Fits s.config.maxHex s.inHex.length → Fits s.config.maxHex v.length) ∧
      exec i s = .next (s.finishHex (.ok v))) ∨
    (∃ v, resultBuffer i = .text ∧ Fits s.config.maxText v.length ∧ exec i s = .next (s.finishText (.ok v))) ∨
    (∃ v, resultBuffer i = .record ∧ exec i s = .next (s.finishRec (.ok v))) := by
  cases i with
  | revo =>
    rcases revo_cases s.inHex with ⟨e, p⟩ | ⟨e, -⟩
    · refine .inr (.inl ⟨_, rfl, hexPairs_reverseOctets p.1, fun h => ?_, by simp [exec, execRevo, e]⟩)
      rwa [reverseOctets_length, p.two_mul_half]
    · exact .inl ⟨.malformed, by simp, by simp [exec, execRevo, e]⟩
  | swpn =>
    rcases swpn_cases s.inHex with ⟨e, p⟩ | ⟨e, -⟩
    · refine .inr (.inl ⟨_, rfl, hexPairs_swapNibbles p.1, fun h => ?_, by simp [exec, execSwpn, e]⟩)
      rwa [swapNibbles_length, p.two_mul_half]
    · exact .inl ⟨.malformed, by simp, by simp [exec, execSwpn, e]⟩
  | dec7 strip =>
    rcases dec7_cases s.config strip s.inHex with ⟨v, e, p⟩ | e
    · exact .inr (.inr (.inl ⟨v, rfl, p, by simp [exec, execDec7, e]⟩))
    · exact .inl ⟨.malformed, by simp, by simp [exec, execDec7, e]⟩
  | enc7 pad =>
    rcases enc7_cases s.config pad s.inText with ⟨o, e, p⟩ | e | e
    · exact .inr (.inl ⟨_, rfl, hexPairs_hexOf o, fun _ => p, by simp [exec, execEnc7, e]⟩)
    · exact .inl ⟨.encoding, by simp, by simp [exec, execEnc7, e]⟩
    · exact .inl ⟨.malformed, by simp, by simp [exec, execEnc7, e]⟩
  | decdate =>
    cases e : decdate s.inHex with
    | ok v => exact .inr (.inr (.inr ⟨v, rfl, by simp [exec, execDecdate, e]⟩))
    | error k => exact .inl ⟨k, by rcases decdate_error e with rfl | rfl <;> simp, by simp [exec, execDecdate, e]⟩
  | encdate =>
    rcases encdate_cases s.config s.inRec with ⟨v, e, p, q⟩ | e | e
    · exact .inr (.inl ⟨v, rfl, p, fun _ => q, by simp [exec, execEncdate, e]⟩)
    · exact .inl ⟨.validation, by simp, by simp [exec, execEncdate, e]⟩
    · exact .inl ⟨.malformed, by simp, by simp [exec, execEncdate, e]⟩
  | decnum =>
    rcases decnum_cases s.config s.inHex with ⟨v, e, p⟩ | e
    · exact .inr (.inr (.inl ⟨v, rfl, p, by simp [exec, execDecnum, e]⟩))
    · exact .inl ⟨.malformed, by simp, by simp [exec, execDecnum, e]⟩
  | encnum =>
    rcases encnum_cases s.config s.inText with ⟨v, e, p, q⟩ | e
    · exact .inr (.inl ⟨v, rfl, p, fun _ => q, by simp [exec, execEncnum, e]⟩)
    · exact .inl ⟨.malformed, by simp, by simp [exec, execEncnum, e]⟩
  | dectoa =>
    cases e : dectoa s.config s.inHex with
    | ok v => exact .inr (.inr (.inr ⟨v, rfl, by simp [exec, execDectoa, e]⟩))
    | error k => exact .inl ⟨k, by rcases dectoa_error e with rfl | rfl <;> simp, by simp [exec, execDectoa, e]⟩
  | enctoa =>
    rcases enctoa_cases s.config s.inRec with ⟨o, e, p⟩ | e | e
    · exact .inr (.inl ⟨_, rfl, hexPairs_hexOf [o], fun _ => p, by simp [exec, execEnctoa, e]⟩)
    · exact .inl ⟨.validation, by simp, by simp [exec, execEnctoa, e]⟩
    · exact .inl ⟨.malformed, by simp, by simp [exec, execEnctoa, e]⟩

end Sys2Proof.Laws
end

