-- ==== Sys2Proof/Laws/PerInstr.lean ====
section
/-!
SUPPORT. For every instruction: the word it is written with has the fields of 30_encoding.md R70 and R71, and is well-formed.
-/

namespace Sys2Proof.Laws.Encoding

open Sys2Proof

/-- The encoded word carries the instruction's OPCODE and P and a zero RSV, and passes the checks of R72. -/
def Statement (i : Instr) : Prop :=
  fieldsOf (encode i) = { rsv := 0, p := flagOf i, opcode := opcodeOf i } ∧ i.wellFormed = true

theorem revo : Statement .revo := by constructor <;> decide
theorem swpn : Statement .swpn := by constructor <;> decide
theorem dec7 (strip : Bool) : Statement (.dec7 strip) := by cases strip <;> constructor <;> decide
theorem enc7 (pad : Bool) : Statement (.enc7 pad) := by cases pad <;> constructor <;> decide
theorem decdate : Statement .decdate := by constructor <;> decide
theorem encdate : Statement .encdate := by constructor <;> decide
theorem decnum : Statement .decnum := by constructor <;> decide
theorem encnum : Statement .encnum := by constructor <;> decide
theorem dectoa : Statement .dectoa := by constructor <;> decide
theorem enctoa : Statement .enctoa := by constructor <;> decide

end Sys2Proof.Laws.Encoding
end

