-- ==== Sys2Proof/Laws/Step.lean ====
section
/-!
SUPPORT. Once for all: what the host's port and a step can do.
-/

namespace Sys2Proof.Laws

open Sys2Proof Sys2Proof.Machine

/-- A host action that writes CMD or an operand buffer (70_reset_and_hazards.md R265). -/
def IsWrite : HostAction → Prop
  | .wrHex _ => True
  | .wrText _ => True
  | .wrRec _ => True
  | .cmd _ => True
  | .wait => False
  | .rd _ => False
  | .reset => False

/-- All that a host write can do. -/
theorem hostWrite_cases (s e : State) :
    (s.status = statusBusy ∧ hostWrite s e = .fault .hostHazard) ∨ (s.status ≠ statusBusy ∧ hostWrite s e = .next e) := by
  unfold hostWrite
  by_cases h : s.status = statusBusy <;> simp [h, State.isBusy]

/-- All that a host action other than a write can do. -/
theorem hostAct_quiet (s : State) :
    (∀ r, hostAct (.rd r) s = .next (s.observe r).tick) ∧ hostAct .reset s = .next s.hardReset ∧
    (s.status = statusBusy → hostAct .wait s = .next { s.tick with host := .wait :: s.host }) ∧
    (s.status ≠ statusBusy → hostAct .wait s = .next s) := by
  refine ⟨fun _ => rfl, rfl, fun h => ?_, fun h => ?_⟩ <;> simp [hostAct, State.isBusy, h]

/-- All that a step can do: the unit ends the command, or the host acts, or has nothing to do. -/
theorem step_cases (s : State) :
    (s.unitReady = true ∧ ((∃ i, decode s.cmd = .command i ∧ step s = exec i s) ∨
      ∃ why, decode s.cmd = .illegal why ∧ step s = .next (s.raise .illegalCommand))) ∨
    (s.unitReady = false ∧ ((s.host = [] ∧ step s = .next s.tick) ∨
      ∃ a rest, s.host = a :: rest ∧ step s = hostAct a { s with host := rest })) := by
  by_cases h : s.unitReady = true
  · refine .inl ⟨h, ?_⟩
    cases e : decode s.cmd with
    | command i => exact .inl ⟨i, rfl, by simp [step, h, unitTurn, e]⟩
    | illegal why => exact .inr ⟨why, rfl, by simp [step, h, unitTurn, e]⟩
  · refine .inr ⟨by simpa using h, ?_⟩
    cases e : s.host with
    | nil => exact .inl ⟨rfl, by simp [step, h, hostTurn, e]⟩
    | cons a rest => exact .inr ⟨a, rest, rfl, by simp [step, h, hostTurn, e]⟩

/-- A host program that keeps the protocol after a command word keeps it with no command running. -/
theorem keepsProtocol_weaken {l : List HostAction} : keepsProtocol true l = true → keepsProtocol false l = true := by
  induction l with
  | nil => simp [keepsProtocol]
  | cons a l ih => cases a <;> simp_all [keepsProtocol]

/-- What every command keeps, however it ends: it ends, and the operands, CMD, the ROM and the host's side are as before. -/
theorem exec_kept {i : Instr} {s t : State} (h : exec i s = .next t) :
    t.isBusy = false ∧ t.cmd = s.cmd ∧ t.inHex = s.inHex ∧ t.inText = s.inText ∧ t.inRec = s.inRec ∧ t.config = s.config ∧
      t.host = s.host ∧ t.log = s.log ∧ t.delay = s.delay ∧ t.issued = s.issued := by
  rcases exec_cases i s with ⟨k, -, e⟩ | ⟨v, -, -, -, e⟩ | ⟨v, -, -, e⟩ | ⟨v, -, e⟩ <;> rw [e] at h <;> cases h <;>
    simp [statusBusy, statusDone, statusError]

end Sys2Proof.Laws
end

