-- ==== Sys2Proof/Tests/Slice0.lean ====
section
/-!
SUPPORT. The model's own tests. Expected results are the spec's: 95_test_vectors.md by the vector's id, 30_encoding.md for the
words. The witnesses show, for every statement with hypotheses, a concrete case that meets them all.
-/

namespace Sys2Proof.Tests

open Sys2Proof Sys2Proof.Machine Sys2Proof.Claim

/-- The reset state with IN_HEX written. -/
def hexState (h : String) : State := { State.reset with inHex := h.toList }

/-- The reset state with IN_TEXT written. -/
def textState (t : String) : State := { State.reset with inText := t.toList }

/-- The reset state with IN_REC written. -/
def recState (r : Rec) : State := { State.reset with inRec := r }

/-- The state after one step that runs a command word. -/
def ran (w : Nat) (s : State) : Option State :=
  match step (s.withFetchWord 32 w) with
  | .next t => some t
  | .fault _ => none
  | .refused _ => none

/-! ### WellFormed: every check refuses an ill-formed term -/

theorem test_opcodeKnown_refuses : CommandFields.opcodeKnown ⟨0, false, 0x03⟩ = false := by decide
theorem test_reservedZero_refuses : CommandFields.reservedZero ⟨1, false, 0x10⟩ = false := by decide
theorem test_flagAllowed_refuses : CommandFields.flagAllowed ⟨0, true, 0x20⟩ = false := by decide
theorem test_fields_wellFormed : CommandFields.wellFormed ⟨0, true, 0x10⟩ = true := by decide
theorem test_fields_refuses : CommandFields.wellFormed ⟨0, true, 0x01⟩ = false := by decide

theorem test_stdComplete_refuses_missing_row :
    Config.stdComplete { defaultConfig with gsm7Std := defaultConfig.gsm7Std.drop 1 } = false := by decide
theorem test_stdComplete_refuses_escape_row :
    Config.stdComplete { defaultConfig with gsm7Std := (0x1B, 'x') :: defaultConfig.gsm7Std } = false := by decide
theorem test_stdInjective_refuses : Config.stdInjective { defaultConfig with gsm7Std := [(0, 'a'), (1, 'a')] } = false := by
  decide
theorem test_extFunctional_refuses : Config.extFunctional { defaultConfig with gsm7Ext := [(5, 'a'), (5, 'b')] } = false := by
  decide
theorem test_tablesDisjoint_refuses :
    Config.tablesDisjoint { defaultConfig with gsm7Std := [(0, 'a')], gsm7Ext := [(5, 'a')] } = false := by decide
theorem test_extInjective_refuses : Config.extInjective { defaultConfig with gsm7Ext := [(5, 'a'), (6, 'a')] } = false := by
  decide
theorem test_padMapped_refuses : Config.padMapped { defaultConfig with gsm7Std := [(0, 'a')] } = false := by decide
theorem test_tonComplete_refuses : Config.tonComplete { defaultConfig with tonNames := [(0, .unknown)] } = false := by decide

/-! ### Decoding: the words of 30_encoding.md R71 bit by bit, RSV then P then OPCODE -/

theorem test_decode_revo : decode 0b00000000000000000000000_0_00000001#32 = .command .revo := by decide
theorem test_decode_swpn : decode 0b00000000000000000000000_0_00000010#32 = .command .swpn := by decide
theorem test_decode_dec7 : decode 0b00000000000000000000000_0_00010000#32 = .command (.dec7 false) := by decide
theorem test_decode_dec7_strip : decode 0b00000000000000000000000_1_00010000#32 = .command (.dec7 true) := by decide
theorem test_decode_enc7 : decode 0b00000000000000000000000_0_00010001#32 = .command (.enc7 false) := by decide
theorem test_decode_enc7_pad : decode 0b00000000000000000000000_1_00010001#32 = .command (.enc7 true) := by decide
theorem test_decode_decdate : decode 0b00000000000000000000000_0_00100000#32 = .command .decdate := by decide
theorem test_decode_encdate : decode 0b00000000000000000000000_0_00100001#32 = .command .encdate := by decide
theorem test_decode_decnum : decode 0b00000000000000000000000_0_00110000#32 = .command .decnum := by decide
theorem test_decode_encnum : decode 0b00000000000000000000000_0_00110001#32 = .command .encnum := by decide
theorem test_decode_dectoa : decode 0b00000000000000000000000_0_01000000#32 = .command .dectoa := by decide
theorem test_decode_enctoa : decode 0b00000000000000000000000_0_01000001#32 = .command .enctoa := by decide

theorem test_decodeTableWord : decodeTableWord 32 0x111 = some (.enc7 true) ∧ decodeTableWord 32 0x101 = none := by decide

/-! ### Commands -/

/-- VN-3. -/
theorem test_revo : (ran 0x01 (hexState "0A1B2C")).map (·.outHex) = some "2C1B0A".toList := by decide
/-- VN-7: lowercase. -/
theorem test_revo_lowercase : (ran 0x01 (hexState "0a1b")).map (·.errcode) = some 3 := by decide
/-- VN-5. -/
theorem test_swpn : (ran 0x02 (hexState "1110113152")).map (·.outHex) = some "1101111325".toList := by decide
/-- VN-6: odd length. -/
theorem test_swpn_odd : (ran 0x02 (hexState "0A1")).map (·.errcode) = some 3 := by decide
/-- L1-2: an extension character. -/
theorem test_dec7 : (ran 0x10 (hexState "32D0A60C8287E5A0F63B3D07")).map (·.outText) = some "2 € par mois".toList := by decide
/-- V7-D20: the strip rule counts septets, not characters. -/
theorem test_dec7_strip : (ran 0x110 (hexState "61F1985CDE941B")).map (·.outText) = some "abcde€".toList := by decide
/-- L1-3. -/
theorem test_enc7 : (ran 0x11 (textState "hello")).map (·.outHex) = some "E8329BFD06".toList := by decide
/-- V7-E8: six characters, seven indices, one PAD. -/
theorem test_enc7_pad : (ran 0x111 (textState "abcde€")).map (·.outHex) = some "61F1985CDE941B".toList := by decide
/-- VD-6: the largest negative offset leaves the century. -/
theorem test_decdate : (ran 0x20 (hexState "992113329595FF")).map (·.outRec) =
    some { year := 2100, month := 1, day := 2, hour := 7, minute := 44, second := 59, tzPresent := 1 } := by decide
/-- VD-24: the BCD check comes before the calendar check. -/
theorem test_decdate_bcd_first : (ran 0x20 (hexState "1131A000000000")).map (·.errcode) = some 3 := by decide
/-- VE-5: the largest negative offset. -/
theorem test_encdate : (ran 0x21 (recState ⟨2099, 12, 31, 23, 59, 59, 1, 0x81, 0, 0⟩)).map (·.outHex) = some "992113329595FF".toList := by decide
/-- VE-13: -128 has no magnitude. -/
theorem test_encdate_min_offset : (ran 0x21 (recState ⟨2011, 1, 11, 13, 25, 41, 1, 0x80, 0, 0⟩)).map (·.errcode) = some 1 := by decide
/-- VU-4: only one filler is dropped. -/
theorem test_decnum : (ran 0x30 (hexState "FF")).map (·.outText) = some "F".toList := by decide
/-- VU-6. -/
theorem test_decnum_odd : (ran 0x30 (hexState "3316325476F8")).map (·.outText) = some "33612345678".toList := by decide
/-- VU-12. -/
theorem test_encnum : (ran 0x31 (textState "12345")).map (·.outHex) = some "2143F5".toList := by decide
/-- VU-20: lowercase. -/
theorem test_encnum_lowercase : (ran 0x31 (textState "12a")).map (·.errcode) = some 3 := by decide
/-- VT-4: alphanumeric. -/
theorem test_dectoa : (ran 0x40 (hexState "D0")).map (·.outRec) = some { ton := 5, npi := 0 } := by decide
/-- VT-9: NPI 2 is not defined. -/
theorem test_dectoa_npi : (ran 0x40 (hexState "92")).map (·.errcode) = some 1 := by decide
/-- VT-21. -/
theorem test_enctoa : (ran 0x41 (recState { ton := 2, npi := 9 })).map (·.outHex) = some "A9".toList := by decide
/-- VT-24: NPI 16 does not wrap to 0. -/
theorem test_enctoa_npi : (ran 0x41 (recState { ton := 1, npi := 16 })).map (·.errcode) = some 1 := by decide
/-- VC-3 with IN_HEX "0a": IllegalCommand comes before the operand checks. -/
theorem test_illegal_first : (ran 0x101 (hexState "0a")).map (·.errcode) = some 4 := by decide

/-- U+001B is refused also under a table that maps an index to it (R126, D15; log 15). -/
theorem test_enc7_escape_character :
    let c : Config := { defaultConfig with gsm7Ext := [(0x1B, Char.ofNat 0x1B)] }
    c.wellFormed = true ∧ enc7 c false [Char.ofNat 0x1B] = .error .encoding := by decide
/-- D8: a text of two characters does not fit a MAX_TEXT of 1 (log 11). -/
theorem test_decnum_over_capacity :
    decnum { defaultConfig with maxText := some 1 } ['2', '1'] = .error .malformed := by decide
/-- R22, R264: a read of OUT_HEX while BUSY gives the cleared buffer. -/
theorem test_read_outHex : (State.reset.withFetchWord 32 0x01).readReg .outHex = .hex [] ∧
    (hexState "0A").readReg .inHex = .hex ['0', 'A'] := by decide

/-! ### Witnesses: the hypotheses of the statements can be met -/

/-- A command is running and `delay` more host turns pass before its end. -/
def busyState (delay : Nat) (host : List HostAction) : State := { State.reset.startWith 0x10 delay with host := host }

theorem witness_DecodeClassifiesEveryWord :
    (0x00000000#32).toNat % 256 ∉ opcodes ∧ ((0x00000210#32).toNat % 256 ∈ opcodes ∧ (0x00000210#32).toNat / 512 ≠ 0) ∧
    ((0x00000101#32).toNat % 256 ∈ opcodes ∧ (0x00000101#32).toNat / 512 = 0 ∧ (0x00000101#32).toNat / 256 % 2 = 1 ∧
      ¬ ((0x00000101#32).toNat % 256 = 0x10 ∨ (0x00000101#32).toNat % 256 = 0x11)) ∧ Dispatched 0x00000110#32 := by decide

theorem witness_UndispatchedWordIsIllegalCommand :
    Ending (State.reset.withFetchWord 32 0x101) ∧ ¬ Dispatched (State.reset.withFetchWord 32 0x101).cmd := by decide

theorem witness_StepRunsTheDecodedCommand :
    Ending (State.reset.withFetchWord 32 0x110) ∧
      decode (State.reset.withFetchWord 32 0x110).cmd = .command (.dec7 true) := by decide

theorem witness_CommandWriteStartsCommand :
    let s := { State.reset with status := statusError, errcode := 4, host := [.cmd 0x01] }
    s.status ≠ statusBusy ∧ s.host = .cmd 0x01 :: [] := by decide

theorem witness_EveryCommandCompletes :
    let s := { State.reset with host := [.cmd 0x10, .wait, .rd .outText] }
    s.status ≠ statusBusy ∧ s.host = .cmd 0x10 :: [.wait, .rd .outText] ∧
      ([HostAction.wait, .rd .outText] = [] ∨ ∃ more, [HostAction.wait, .rd .outText] = .wait :: more) :=
  ⟨by decide, rfl, .inr ⟨_, rfl⟩⟩

theorem witness_WriteWhileBusyIsHostHazard :
    let s := busyState 1 [.wrHex []]
    s.status = statusBusy ∧ s.delay ≠ 0 ∧ s.host = .wrHex [] :: [] ∧ Writes (.wrHex []) := ⟨rfl, by decide, rfl, trivial⟩

theorem witness_OnlyHostHazardStops : step (busyState 1 [.cmd 0x01]) = .fault .hostHazard := rfl

theorem witness_ProtocolKeepingHostIsNeverStopped :
    Safe { State.reset with host := [.wrHex ['0'], .cmd 0x01, .rd .status, .wait, .wrText []] } := by
  unfold Safe; decide

theorem witness_ReadsHaveNoSideEffect :
    ¬ Ending (busyState 1 [.rd .status]) ∧ (busyState 1 [.rd .status]).host = .rd .status :: [] := by decide

theorem witness_OperandPortsAcceptOrKeep :
    let c : Config := { defaultConfig with maxHex := some 2, maxText := some 1 }
    State.reset.status ≠ statusBusy ∧ ¬ Exceeds c.maxHex 2 ∧ Exceeds c.maxHex 3 ∧ ¬ Exceeds c.maxText 1 ∧ Exceeds c.maxText 2 ∧
      (∃ v ∈ [0xD800], 0x10FFFF < v ∨ (0xD800 ≤ v ∧ v ≤ 0xDFFF)) ∧
      (∃ v ∈ [0x110000], 0x10FFFF < v ∨ (0xD800 ≤ v ∧ v ≤ 0xDFFF)) := by decide

theorem witness_WaitPollsUntilNotBusy :
    ({ State.reset with host := [.wait] } : State).status ≠ statusBusy ∧
      (busyState 1 [.wait]).status = statusBusy ∧ (busyState 1 [.wait]).delay ≠ 0 := by decide

theorem witness_ResetEventAbandonsTheCommand :
    ¬ Ending (busyState 1 [.reset]) ∧ (busyState 1 [.reset]).host = .reset :: [] := by decide

theorem witness_FinishedRunIsStable : RunOver State.reset := ⟨rfl, by decide⟩

theorem witness_RomNeverChanges : ∃ t, step (hexState "00") = .next t := ⟨_, rfl⟩

theorem witness_OperandsStableWhileBusy :
    (busyState 1 []).status = statusBusy ∧ (∃ t, step (busyState 1 []) = .next t) ∧
      ∀ rest, (busyState 1 []).host ≠ .reset :: rest := ⟨rfl, ⟨_, rfl⟩, by simp [busyState]⟩

theorem witness_StatusAndErrcodeStayLegal :
    ∃ t, CodesLegal (State.reset.withFetchWord 32 0x101) ∧ step (State.reset.withFetchWord 32 0x101) = .next t :=
  ⟨_, by decide, rfl⟩

/-- The default tables meet R29 (used by the witnesses that need a lawful table). -/
theorem default_tables_lawful : defaultConfig.wellFormed = true := by decide

theorem witness_InvariantKeptByEveryStep :
    ∃ t, Inv (State.reset.withFetchWord 32 0x10) ∧ step (State.reset.withFetchWord 32 0x10) = .next t := by
  refine ⟨_, ⟨default_tables_lawful, by decide, by decide, fun _ => ⟨rfl, rfl, rfl⟩, fun h => absurd h (by decide),
    fun h => absurd h (by decide), ⟨fun _ h => absurd h List.not_mem_nil, rfl⟩, ?_, ?_, ?_, ?_⟩, rfl⟩ <;>
    exact fun m _ => Nat.zero_le m

theorem witness_CommandFrame : ∃ t, exec .decnum (hexState "F7") = .next t := ⟨_, rfl⟩

theorem witness_OutcomeDependsOnOperandAndRomOnly :
    let s := { hexState "00" with inText := ['a'] }
    let t := hexState "00"
    s.config = t.config ∧ SameOperand s t .revo ∧ s.ResultsCleared ∧ t.ResultsCleared ∧ s.errcode = errNone ∧
      t.errcode = errNone ∧ (∃ s', exec .revo s = .next s') ∧ ∃ t', exec .revo t = .next t' :=
  ⟨rfl, rfl, ⟨rfl, rfl, rfl⟩, ⟨rfl, rfl, rfl⟩, rfl, rfl, ⟨_, rfl⟩, ⟨_, rfl⟩⟩

/-- The three commands of the statement, each at the largest capacity that is too small. -/
theorem witness_ResultOverCapacityIsMalformed :
    let c : Config := { defaultConfig with maxText := some 1, maxHex := some 1 }
    BeyondCapacity .decnum { hexState "21" with config := c } ∧
    BeyondCapacity .encdate { recState { year := 2000, month := 1, day := 1 } with config := { c with maxHex := some 13 } } ∧
    BeyondCapacity .enctoa { recState { ton := 1, npi := 1 } with config := c } :=
  ⟨.inl ⟨rfl, by decide, by decide⟩, .inr (.inl ⟨rfl, by decide, by decide⟩), .inr (.inr ⟨rfl, by decide, by decide⟩)⟩

theorem witness_MalformedInputErrorExactly : ¬ BeyondCapacity .decnum (hexState "0A1") := by
  rintro (⟨-, h, -⟩ | ⟨h, -⟩ | ⟨h, -⟩)
  · exact absurd h (by decide)
  · cases h
  · cases h

theorem witness_ResultsFitTheirBuffers :
    ∃ t, Fits (hexState "21").config.maxHex (hexState "21").inHex.length ∧ exec .decnum (hexState "21") = .next t ∧
      t.status = statusDone := ⟨_, (fun _ h => nomatch h), rfl, by decide⟩

theorem witness_RevoReversesOctets : HexOperand (hexState "0A1B2C").inHex ∧ ¬ HexOperand (hexState "0A1").inHex := by decide

theorem witness_SwpnSwapsNibbles : HexOperand (hexState "").inHex ∧ ¬ HexOperand (hexState "G0").inHex := by decide

theorem witness_NibbleUtilityLaws :
    ∃ s r w rr ww rw wr : State, HexOperand s.inHex ∧ exec .revo s = .next r ∧ exec .swpn s = .next w ∧
      exec .revo { r with inHex := r.outHex } = .next rr ∧ exec .swpn { w with inHex := w.outHex } = .next ww ∧
      exec .revo { w with inHex := w.outHex } = .next rw ∧ exec .swpn { r with inHex := r.outHex } = .next wr :=
  ⟨hexState "0A1B2C", _, _, _, _, _, _, by decide, rfl, rfl, rfl, rfl, rfl, rfl⟩

theorem witness_TableLookupsAreTheRows : defaultConfig.wellFormed = true := default_tables_lawful

theorem witness_UnpackReadsBitsInOrder : 1 < 8 * ([0xE8, 0x32] : List Octet).length / 7 ∧ 6 < 7 := by decide

theorem witness_PackWritesBitsInOrder : 0 < octetCount ([0x41] : List Septet).length ∧ 7 < 8 := by decide

/-- V7-D3 and V7-D4. -/
theorem witness_SeptetCountAndLeftoverBits :
    let o : List Octet := [0x41]
    let o' : List Octet := [0xC1]
    o.length = o'.length ∧ ∀ k, k < 8 * o.length - 8 * o.length % 7 →
      (o.getD (k / 8) 0).getLsbD (k % 8) = (o'.getD (k / 8) 0).getLsbD (k % 8) := by decide

theorem witness_Dec7DecodesPackedText :
    let s := { hexState "41" with config := { defaultConfig with maxText := some 0 } }
    (HexOperand (hexState "41").inHex ∧
      ¬ Exceeds (hexState "41").config.maxText (decodedText (hexState "41").config false (hexState "41").inHex).length) ∧
    (HexOperand s.inHex ∧ Exceeds s.config.maxText (decodedText s.config false s.inHex).length) ∧
    ¬ HexOperand (hexState "0a").inHex := by decide

theorem witness_Enc7EncodesText :
    let c := { defaultConfig with maxHex := some 1 }
    indexList defaultConfig ['a'] = some [0x61] ∧
    ¬ Exceeds defaultConfig.maxHex (2 * octetCount (padded defaultConfig false [0x61] ['a']).length) ∧
    Exceeds c.maxHex (2 * octetCount (padded c false [0x61] ['a']).length) ∧ indexList defaultConfig ['`'] = none := by decide

/-- A text of exactly MAX_TEXT characters. -/
theorem witness_Gsm7RoundTrips :
    let s : State := { textState "a" with config := { defaultConfig with maxText := some 1 } }
    ∃ e : State, s.config.wellFormed = true ∧ indexList s.config s.inText = some [0x61] ∧
      exec (.enc7 true) s = .next e ∧ e.status = statusDone ∧
      Fits s.config.maxText (roundTrip s.config true true s.inText 1).length :=
  ⟨_, default_tables_lawful, by decide, rfl, by decide, fun _ h => by cases h; decide⟩

theorem witness_SecondsFollowTheCalendar : Valid ⟨2000, 2, 29, 23, 59, 59⟩ ∧ Valid ⟨1999, 12, 31, 23, 59, 59⟩ := by decide

theorem witness_CivilInvertsSeconds : Valid ⟨-400, 2, 29, 0, 0, 0⟩ ∧ Valid ⟨2100, 12, 31, 23, 59, 59⟩ := by decide

theorem witness_TimezoneOctetCodec : -127 ≤ (-127 : Int) ∧ (-127 : Int) ≤ 127 := by decide

/-- VD-24, VD-15, VD-5. -/
theorem witness_DecdateDecodesToUtc :
    ¬ DateDigits (hexState "1131A000000000").inHex ∧
    (DateDigits (hexState "11209200000000").inHex ∧ ¬ Valid (localTime (hexState "11209200000000").inHex)) ∧
    (DateDigits (hexState "00101000000040").inHex ∧ Valid (localTime (hexState "00101000000040").inHex)) := by decide

/-- VE-6, VE-15. -/
theorem witness_EncdateWritesLocalFields :
    DateAccepted { year := 2000, month := 1, day := 1, tzPresent := 1, tzQuarters := 127 } ∧
      ¬ DateAccepted { year := 2100, month := 1, day := 1 } ∧ ¬ Exceeds (some 14) 14 := by decide

theorem witness_EncdateOutputShape :
    (∃ e, exec .encdate (recState { year := 2099, month := 12, day := 31 }) = .next e ∧ e.status = statusDone) ∧ 11 < 12 :=
  ⟨⟨_, rfl, by decide⟩, by decide⟩

theorem witness_EncodedDateDecodesToSameInstant :
    ∃ e, exec .encdate (recState { year := 2000, month := 1, day := 1 }) = .next e ∧ e.status = statusDone :=
  ⟨_, rfl, by decide⟩

/-- VD-1 and VD-3. -/
theorem witness_DecodedUtcDateEncodesBack :
    (∃ d, exec .decdate (hexState "11101131521400") = .next d ∧ d.status = statusDone ∧
      tzOctet (hexState "11101131521400").inHex = 0x00 ∧ Fits defaultConfig.maxHex 14) ∧
    ∃ d, exec .decdate (hexState "11101131521408") = .next d ∧ d.status = statusDone ∧
      tzOctet (hexState "11101131521408").inHex = 0x80 :=
  ⟨⟨_, rfl, by decide, by decide, (fun _ h => nomatch h)⟩, ⟨_, rfl, by decide, by decide⟩⟩

theorem witness_DecnumReadsSemiOctets :
    HexOperand (hexState "1F").inHex ∧ ¬ Exceeds (some 2) (numberText (hexState "1F").inHex).length ∧ ¬ HexOperand (hexState "123").inHex := by decide

theorem witness_EncnumWritesSemiOctets :
    AllDigits (textState "12F").inText ∧ ¬ Exceeds (some 4) (3 + 3 % 2) ∧ Exceeds (some 3) (3 + 3 % 2) ∧
      ¬ AllDigits (textState "*1").inText := by decide

/-- VU-17 and VU-18: the two clauses on a final 'F'; and one string to decode. -/
theorem witness_NumberRoundTrips :
    (∃ e, exec .encnum (textState "1F") = .next e ∧ e.status = statusDone) ∧
    (Fits (textState "12F").config.maxText (textState "12F").inText.length ∧
      ∃ e, exec .encnum (textState "12F") = .next e ∧ e.status = statusDone) ∧
    (AllDecimal (textState "12").inText ∧ ∃ e, exec .encnum (textState "12") = .next e ∧ e.status = statusDone) ∧
    ∃ d, exec .decnum (hexState "F7") = .next d ∧ d.status = statusDone ∧
      Fits (hexState "F7").config.maxHex (hexState "F7").inHex.length :=
  ⟨⟨_, rfl, by decide⟩, ⟨(fun _ h => nomatch h), _, rfl, by decide⟩, ⟨by decide, _, rfl, by decide⟩, _, rfl, by decide, (fun _ h => nomatch h)⟩

/-- VT-14, VT-8, VT-9, VT-6. -/
theorem witness_DectoaReadsTonAndNpi :
    ¬ (HexOperand (hexState "9100").inHex ∧ (hexState "9100").inHex.length = 2) ∧
    (HexOperand (hexState "7F").inHex ∧ octetAt (hexState "7F").inHex 0 < 128) ∧
    (128 ≤ octetAt (hexState "92").inHex 0 ∧ ¬ NpiDefined defaultConfig (octetAt (hexState "92").inHex 0 % 16)) ∧
    (128 ≤ octetAt (hexState "FF").inHex 0 ∧ NpiDefined defaultConfig (octetAt (hexState "FF").inHex 0 % 16)) := by decide

/-- VT-19, VT-22, VT-24. -/
theorem witness_EnctoaWritesTonAndNpi :
    ((7#8).toNat ≤ 7 ∧ NpiDefined defaultConfig (15#8).toNat ∧ ¬ Exceeds (some 2) 2) ∧ 7 < (8#8).toNat ∧ ¬ NpiDefined defaultConfig (16#8).toNat := by decide

theorem witness_TypeOfAddressLaws :
    ((7#8).toNat ≤ 7 ∧ NpiDefined defaultConfig (15#8).toNat) ∧ Fits defaultConfig.maxHex 2 ∧
      ∃ d, exec .dectoa (hexState "80") = .next d ∧ d.status = statusDone :=
  ⟨by decide, (fun _ h => nomatch h), _, rfl, by decide⟩

theorem witness_ToaNamesFollowFromCodes : defaultConfig.wellFormed = true := default_tables_lawful

end Sys2Proof.Tests
end

section
/-!
PROOFS. The family 00_scope.md. First the readings that tie `Sys2Proof.Claim` to the functions of Machine/, then the statements.
-/

namespace Sys2Proof.Proofs

open Sys2Proof Sys2Proof.Machine Sys2Proof.Claim Sys2Proof.Laws

/-! ### The claims' formulas and the machine's functions -/

theorem isHex_iff_isDigit {c : Char} : isHex c = true ↔ IsDigit c := by
  constructor
  · exact forall_isHex (p := IsDigit) (by simp [hexDigits, IsDigit])
  · have hc : Char.ofNat c.toNat = c := Char.ofNat_toNat c
    rintro (⟨lo, hi⟩ | ⟨lo, hi⟩) <;> rw [← hc] <;> generalize c.toNat = n at lo hi <;> interval_cases n <;> decide

theorem hexOperand_iff_hexPairs {h : HexString} : HexOperand h ↔ HexPairs h := by
  simp [HexOperand, AllDigits, HexPairs, isHex_iff_isDigit]

theorem swapped_eq_swapNibbles (h : HexString) : swapped h = swapNibbles h := by
  induction h using pairInduction with
  | nil => rfl
  | one c => simp [swapped, swapNibbles]
  | pair a b rest ih =>
    have half : (a :: b :: rest).length / 2 = rest.length / 2 + 1 := by simp only [List.length_cons]; omega
    rw [swapped, half, List.range_succ_eq_map, List.flatMap_cons, List.flatMap_map, swapNibbles, ← ih]
    rfl

theorem exceeds_iff_not_fits {cap : Option Nat} {len : Nat} : Exceeds cap len ↔ ¬ Fits cap len := by
  cases cap <;> simp [Exceeds, Fits]

theorem leap_iff {y : Int} : leap y = true ↔ (4 ∣ y ∧ ¬ 100 ∣ y) ∨ 400 ∣ y := by
  simp only [leap, Int.dvd_iff_emod_eq_zero, decide_eq_true_eq, ne_eq]

theorem dim_eq_daysIn {y : Int} {m : Nat} (lo : 1 ≤ m) (hi : m ≤ 12) : dim y m = daysIn y m := by
  interval_cases m <;> simp [dim, daysIn, leap_iff]

theorem validLocal_iff_valid {t : CivilTime} : validLocal t = true ↔ Valid t := by
  simp only [validLocal, Valid, decide_eq_true_eq]
  constructor
  · rintro ⟨m1, m2, d1, d2, rest⟩
    exact ⟨⟨m1, m2⟩, ⟨d1, dim_eq_daysIn m1 m2 ▸ d2⟩, rest⟩
  · rintro ⟨⟨m1, m2⟩, ⟨d1, d2⟩, rest⟩
    exact ⟨m1, m2, d1, (dim_eq_daysIn m1 m2).symm ▸ d2, rest⟩

theorem npiIsDefined_iff {c : Config} {npi : BitVec 8} : c.npiIsDefined npi = true ↔ NpiDefined c npi.toNat := by
  simp [Config.npiIsDefined, NpiDefined]

theorem failed_eq_raise (s : State) (k : ErrKind) : failed s k = .next (s.raise k) := rfl

/-! ### Commands whose result is over capacity -/

/-- On a well-formed operand DECNUM is its text under the capacity check (43_number.md R190, D8). -/
theorem decnum_of_hexPairs (c : Config) {h : HexString} (p : HexPairs h) :
    decnum c h = (do checkCapacity c.maxText (numberText h).length; return numberText h) := by
  simp only [decnum, checkHex_ok_iff.mpr p, numberText, swapped_eq_swapNibbles, filler]
  rfl

theorem decnum_overCapacity {c : Config} {h : HexString} (p : HexPairs h)
    (tooLong : ¬ Fits c.maxText (numberText h).length) : decnum c h = .error .malformed := by
  rw [decnum_of_hexPairs c p, checkCapacity_error tooLong]
  rfl

theorem encdate_overCapacity {c : Config} {r : Rec} (accepted : DateAccepted r) (tooLong : ¬ Fits c.maxHex 14) :
    encdate c r = .error .malformed := by
  obtain ⟨⟨lo, hi⟩, valid, offset⟩ := accepted
  have inRange : ¬ (r.year.toNat < 2000 ∨ 2099 < r.year.toNat) := by omega
  have validTime : validLocal (recordTime r) = true := validLocal_iff_valid.mpr valid
  simp only [encdate, if_neg inRange, validTime, if_neg offset, checkCapacity_error tooLong]
  rfl

theorem enctoa_overCapacity {c : Config} {r : Rec} (ton : r.ton.toNat ≤ 7) (npi : NpiDefined c r.npi.toNat)
    (tooLong : ¬ Fits c.maxHex 2) : enctoa c r = .error .malformed := by
  simp only [enctoa, if_neg (Nat.not_lt.mpr ton), npiIsDefined_iff.mpr npi, checkCapacity_error tooLong]
  rfl

/-! ### The statements -/

/-- Settles O24: each of the four ends `exec` can come to sets STATUS to DONE or ERROR. -/
theorem everyCommandAnswers : Obligations.EveryCommandAnswers := by
  intro i s
  rcases exec_cases i s with ⟨k, -, e⟩ | ⟨v, -, -, -, e⟩ | ⟨v, -, -, e⟩ | ⟨v, -, e⟩
  · exact ⟨_, e, .inr (raise_status s k)⟩
  · exact ⟨_, e, .inl (finishHex_ok_status s v)⟩
  · exact ⟨_, e, .inl (finishText_ok_status s v)⟩
  · exact ⟨_, e, .inl (finishRec_ok_status s v)⟩

/-- Settles O29: with every check before it passed, the capacity check of each of the three commands answers malformed. -/
theorem resultOverCapacityIsMalformed : Obligations.ResultOverCapacityIsMalformed := by
  rintro i s (⟨rfl, operand, tooLong⟩ | ⟨rfl, accepted, tooLong⟩ | ⟨rfl, ⟨ton, npi⟩, tooLong⟩) <;>
    rw [exceeds_iff_not_fits] at tooLong <;> rw [failed_eq_raise]
  · rw [exec, execDecnum, decnum_overCapacity (hexOperand_iff_hexPairs.mp operand) tooLong, finishText_error]
  · rw [exec, execEncdate, encdate_overCapacity accepted tooLong, finishHex_error]
  · rw [exec, execEnctoa, enctoa_overCapacity ton npi tooLong, finishHex_error]

/-- Settles O30: the value `exec` writes fits its own buffer, and a command writes no other. -/
theorem resultsFitTheirBuffers : Obligations.ResultsFitTheirBuffers := by
  intro i s t inHexFits run done
  rcases exec_cases i s with ⟨k, -, e⟩ | ⟨v, buffer, -, fits, e⟩ | ⟨v, buffer, fits, e⟩ | ⟨v, buffer, e⟩ <;>
    rw [e] at run <;> cases run
  · exact absurd done (by simp [statusError, statusDone])
  · exact ⟨fun _ => fits inHexFits, by simp [buffer]⟩
  · exact ⟨by simp [buffer], fun _ => fits⟩
  · exact ⟨by simp [buffer], by simp [buffer]⟩

end Sys2Proof.Proofs
end

section
/-!
PROOFS. The family 10_state.md. First the unit's own part of a state and all that a step can do to it, then the ports, the
codes and the two kinds of states that meet the invariant, then the tables' rows, then the statements.
-/

namespace Sys2Proof.Proofs

open Sys2Proof Sys2Proof.Machine Sys2Proof.Claim Sys2Proof.Laws

/-! ### The unit's own part of a state -/

/-- The registers, the buffers and the ROM (10_state.md R22, R28), with the model's own four fields blanked (log 2, 3). -/
def block (s : State) : State := { s with host := [], log := [], delay := 0, issued := 0 }

theorem block_tick (s : State) : block s.tick = block s := by
  unfold State.tick; split <;> rfl

theorem block_writeHex (s : State) (chars : List Char) : block (s.writeHex chars) = (block s).writeHex chars :=
  apply_ite block _ _ _

theorem block_writeText (s : State) (values : List Nat) : block (s.writeText values) = (block s).writeText values :=
  apply_ite block _ _ _

theorem codesLegal_block {s : State} : CodesLegal (block s) ↔ CodesLegal s := Iff.rfl

theorem inv_block {s : State} : Inv (block s) ↔ Inv s := ⟨fun h => { h with }, fun h => { h with }⟩

/-! ### What a step does to the unit -/

/-- All that a turn of the host can do to the unit's own part: the writes of 70_reset_and_hazards.md R265 only while STATUS is not
BUSY. -/
inductive HostEffect (b : State) : State → Prop
  | quiet : HostEffect b b
  | writesHex (free : b.status ≠ statusBusy) (chars : List Char) : HostEffect b (b.writeHex chars)
  | writesText (free : b.status ≠ statusBusy) (values : List Nat) : HostEffect b (b.writeText values)
  | writesRec (free : b.status ≠ statusBusy) (r : Rec) : HostEffect b (b.writeRec r)
  | begins (free : b.status ≠ statusBusy) (w : Word) : HostEffect b (block (b.beginCommand w))
  | resets : HostEffect b b.hardReset

theorem HostEffect.of_same {s t : State} (same : block t = block s) : HostEffect (block s) (block t) := same ▸ .quiet

theorem hostWrite_next {s e t : State} (h : hostWrite s e = .next t) : (block s).status ≠ statusBusy ∧ t = e := by
  rcases hostWrite_cases s e with ⟨-, w⟩ | ⟨free, w⟩ <;> rw [w] at h <;> cases h
  exact ⟨free, rfl⟩

theorem hostAct_effect {a : HostAction} {s t : State} (h : hostAct a s = .next t) : HostEffect (block s) (block t) := by
  obtain ⟨read, reset, waitBusy, waitFree⟩ := hostAct_quiet s
  cases a with
  | wrHex chars =>
    obtain ⟨free, rfl⟩ := hostWrite_next h
    exact block_writeHex s chars ▸ .writesHex free chars
  | wrText values =>
    obtain ⟨free, rfl⟩ := hostWrite_next h
    exact block_writeText s values ▸ .writesText free values
  | wrRec r =>
    obtain ⟨free, rfl⟩ := hostWrite_next h
    exact .writesRec free r
  | cmd w =>
    obtain ⟨free, rfl⟩ := hostWrite_next h
    exact .begins free w
  | wait =>
    by_cases busy : s.status = statusBusy
    · cases (waitBusy busy).symm.trans h
      exact .of_same (block_tick s)
    · cases (waitFree busy).symm.trans h
      exact .quiet
  | rd r =>
    cases (read r).symm.trans h
    exact .of_same (block_tick (s.observe r))
  | reset =>
    cases reset.symm.trans h
    exact .resets

/-- All that a step can do to the unit: it runs the command in CMD, or refuses the word, or the host has its turn. -/
theorem step_effect {s t : State} (h : step s = .next t) :
    (s.status = statusBusy ∧ ∃ i, decode s.cmd = .command i ∧ exec i s = .next t) ∨
    (s.status = statusBusy ∧ (∀ i, decode s.cmd ≠ .command i) ∧ t = s.raise .illegalCommand) ∨
    HostEffect (block s) (block t) := by
  rcases step_cases s with ⟨ready, ⟨i, command, e⟩ | ⟨why, illegal, e⟩⟩ | ⟨-, ⟨-, e⟩ | ⟨a, rest, -, e⟩⟩ <;> rw [e] at h
  · exact .inl ⟨((unitReady_iff s).mp ready).1, i, command, h⟩
  · cases h
    exact .inr (.inl ⟨((unitReady_iff s).mp ready).1, by simp [illegal], rfl⟩)
  · cases h
    exact .inr (.inr (.of_same (block_tick s)))
  · exact .inr (.inr (hostAct_effect (s := { s with host := rest }) h))

theorem config_hostEffect {b u : State} (effect : HostEffect b u) : u.config = b.config := by
  cases effect with
  | quiet => rfl
  | writesHex _ chars => exact writeHex_config b chars
  | writesText _ values => exact writeText_config b values
  | writesRec _ r => rfl
  | begins _ w => rfl
  | resets => rfl

/-! ### The ports of the operand buffers -/

theorem step_hostWrite {s e : State} {a : HostAction} {rest : List HostAction} (free : s.status ≠ statusBusy)
    (next : s.host = a :: rest) (write : hostAct a { s with host := rest } = hostWrite { s with host := rest } e) :
    step s = .next e := by
  rcases step_cases s with ⟨ready, -⟩ | ⟨-, ⟨empty, -⟩ | ⟨a', rest', host, run⟩⟩
  · exact absurd ((unitReady_iff s).mp ready).1 free
  · simp [empty] at next
  · obtain ⟨rfl, rfl⟩ := List.cons.inj (host.symm.trans next)
    rcases hostWrite_cases { s with host := rest' } e with ⟨busy, -⟩ | ⟨-, accepted⟩
    · exact absurd busy free
    · rw [run, write, accepted]

theorem isScalar_false_iff {v : Nat} : isScalar v = false ↔ 0x10FFFF < v ∨ (0xD800 ≤ v ∧ v ≤ 0xDFFF) := by
  simp only [isScalar, Bool.or_eq_false_iff, Bool.and_eq_false_iff, decide_eq_false_iff_not]
  omega

theorem isScalar_toNat (ch : Char) : isScalar ch.toNat = true := by
  have valid : ch.toNat < 0xD800 ∨ (0xDFFF < ch.toNat ∧ ch.toNat < 0x110000) := ch.valid
  simp only [isScalar, Bool.or_eq_true, Bool.and_eq_true, decide_eq_true_eq]
  omega

theorem overCapacity_iff_exceeds {cap : Option Nat} {len : Nat} : overCapacity cap len = true ↔ Exceeds cap len := by
  cases cap <;> simp [overCapacity, Exceeds]

theorem fits_of_not_exceeds {cap : Option Nat} {len : Nat} (fits : ¬ Exceeds cap len) : Fits cap len :=
  not_not.mp (exceeds_iff_not_fits.not.mp fits)

theorem writeHex_accepted {s : State} {chars : List Char} (fits : ¬ Exceeds s.config.maxHex chars.length) :
    s.writeHex chars = { s with inHex := chars } :=
  if_neg (mt overCapacity_iff_exceeds.mp fits)

theorem writeHex_refused {s : State} {chars : List Char} (tooLong : Exceeds s.config.maxHex chars.length) :
    s.writeHex chars = s :=
  if_pos (overCapacity_iff_exceeds.mpr tooLong)

theorem writeText_accepted {s : State} {values : List Nat} (fits : ¬ Exceeds s.config.maxText values.length)
    (scalars : ∀ v ∈ values, isScalar v = true) : s.writeText values = { s with inText := values.map Char.ofNat } := by
  refine if_neg ?_
  rw [Bool.or_eq_true, overCapacity_iff_exceeds, List.all_eq_true.mpr scalars]
  simp [fits]

theorem writeText_refused {s : State} {values : List Nat}
    (refused : Exceeds s.config.maxText values.length ∨ ∃ v ∈ values, isScalar v = false) : s.writeText values = s := by
  refine if_pos ?_
  rw [Bool.or_eq_true, overCapacity_iff_exceeds]
  exact refused.imp_right fun ⟨v, mem, notScalar⟩ => by simpa using ⟨v, mem, notScalar⟩

theorem map_ofNat_map_toNat (text : Text) : (text.map Char.toNat).map Char.ofNat = text := by
  simp [Function.comp_def]

/-! ### The codes of STATUS and ERRCODE -/

theorem errCode_inj {k l : ErrKind} : errCode k = errCode l ↔ k = l := by
  cases k <;> cases l <;> decide

theorem codesLegal_of_none {s : State} (status : s.status ≠ statusError) (noError : s.errcode = errNone) : CodesLegal s :=
  ⟨fun e => absurd e status, fun _ => noError⟩

theorem codesLegal_of_same {s t : State} (h : CodesLegal s) (status : t.status = s.status) (errcode : t.errcode = s.errcode) :
    CodesLegal t := by
  rwa [CodesLegal, status, errcode]

theorem codesLegal_raise (s : State) (k : ErrKind) : CodesLegal (s.raise k) :=
  ⟨fun _ => by rw [raise_errcode]; cases k <;> decide, fun e => absurd (raise_status s k) e⟩

theorem errNone_of_busy {s : State} (h : CodesLegal s) (busy : s.status = statusBusy) : s.errcode = errNone :=
  h.2 (by rw [busy]; decide)

theorem codesLegal_exec {s t : State} {i : Instr} (h : CodesLegal s) (busy : s.status = statusBusy)
    (run : exec i s = .next t) : CodesLegal t := by
  have noError := errNone_of_busy h busy
  rcases exec_cases i s with ⟨k, -, e⟩ | ⟨v, -, -, -, e⟩ | ⟨v, -, -, e⟩ | ⟨v, -, e⟩ <;> cases e.symm.trans run
  · exact codesLegal_raise s k
  all_goals exact codesLegal_of_none (by simp [statusDone, statusError]) noError

theorem codesLegal_hostEffect {b u : State} (h : CodesLegal b) (effect : HostEffect b u) : CodesLegal u := by
  cases effect with
  | quiet => exact h
  | writesHex _ chars => exact codesLegal_of_same h (by simp) (by simp)
  | writesText _ values => exact codesLegal_of_same h (by simp) (by simp)
  | writesRec _ r => exact codesLegal_of_same h (by simp) (by simp)
  | begins _ w => exact codesLegal_block.mpr (codesLegal_of_none (by simp [statusBusy, statusError]) (by simp))
  | resets => exact codesLegal_of_none (by simp [statusIdle, statusError]) (by simp)

/-! ### The two kinds of states that meet the invariant -/

theorem fits_nil (cap : Option Nat) : Fits cap ([] : List Char).length := fun m _ => Nat.zero_le m

theorem codesLegal_of_inv {s : State} (h : Inv s) : CodesLegal s :=
  ⟨fun e => by simpa [e] using h.errcode, fun e => by simpa [e] using h.errcode⟩

/-- The invariant where no command has ended with Ok: a cleared result has no digits to check and fits every capacity. -/
theorem inv_of_cleared {s : State} (rom : s.config.wellFormed = true) (codes : CodesLegal s)
    (notDone : s.status ≠ statusDone) (cleared : s.ResultsCleared) (idle : s.status = statusIdle → s.cmd = 0)
    (illegal : s.status = statusError → (s.errcode = errCode .illegalCommand ↔ ∀ i, decode s.cmd ≠ .command i))
    (inHex : Fits s.config.maxHex s.inHex.length) (inText : Fits s.config.maxText s.inText.length) : Inv s where
  rom := rom
  errcode := by split_ifs with h; exacts [codes.1 h, codes.2 h]
  idle := idle
  cleared _ := cleared
  done h := absurd h notDone
  illegal := illegal
  outHex := cleared.1 ▸ hexPairs_nil
  outHexFits := cleared.1 ▸ fits_nil _
  outTextFits := cleared.2.1 ▸ fits_nil _
  inHex := inHex
  inText := inText

/-- The invariant where the command in CMD has ended with Ok and has written no result buffer but its own. -/
theorem inv_of_done {s : State} {i : Instr} (rom : s.config.wellFormed = true) (done : s.status = statusDone)
    (noError : s.errcode = errNone)
    (result : decode s.cmd = .command i ∧ (resultBuffer i ≠ .hex → s.outHex = []) ∧
      (resultBuffer i ≠ .text → s.outText = []) ∧ (resultBuffer i ≠ .record → s.outRec = Rec.zero))
    (outHex : HexPairs s.outHex) (outHexFits : Fits s.config.maxHex s.outHex.length)
    (outTextFits : Fits s.config.maxText s.outText.length) (inHex : Fits s.config.maxHex s.inHex.length)
    (inText : Fits s.config.maxText s.inText.length) : Inv s where
  rom := rom
  errcode := by rw [done]; exact noError
  idle h := by rw [done] at h; cases h
  cleared h := absurd done h
  done _ := ⟨i, result⟩
  illegal h := by rw [done] at h; cases h
  outHex := outHex
  outHexFits := outHexFits
  outTextFits := outTextFits
  inHex := inHex
  inText := inText

/-! ### Every step keeps the invariant -/

theorem cleared_of_busy {s : State} (h : Inv s) (busy : s.status = statusBusy) : s.ResultsCleared :=
  h.cleared (by rw [busy]; decide)

/-- Error completion keeps the invariant when it records IllegalCommand for a word that is no command, and for no other
(30_encoding.md R72, 60_exceptions.md R234). -/
theorem inv_raise {s : State} {k : ErrKind} (h : Inv s) (busy : s.status = statusBusy)
    (illegal : k = .illegalCommand ↔ ∀ i, decode s.cmd ≠ .command i) : Inv (s.raise k) :=
  inv_of_cleared h.rom (codesLegal_raise s k) (by simp [statusError, statusDone]) (cleared_of_busy (s := s) h busy)
    (by simp [statusError, statusIdle]) (fun _ => errCode_inj.trans illegal) h.inHex h.inText

theorem inv_exec {s t : State} {i : Instr} (h : Inv s) (busy : s.status = statusBusy) (command : decode s.cmd = .command i)
    (run : exec i s = .next t) : Inv t := by
  obtain ⟨hex, text, record⟩ := cleared_of_busy h busy
  have noError : s.errcode = errNone := errNone_of_busy (codesLegal_of_inv h) busy
  rcases exec_cases i s with ⟨k, own, e⟩ | ⟨v, buffer, pairs, fits, e⟩ | ⟨v, buffer, fits, e⟩ | ⟨v, buffer, e⟩ <;>
    cases e.symm.trans run
  · exact inv_raise h busy ⟨fun e => absurd e own, fun noCommand => absurd command (noCommand i)⟩
  · exact inv_of_done h.rom rfl noError ⟨command, absurd buffer, fun _ => text, fun _ => record⟩ pairs (fits h.inHex)
      h.outTextFits h.inHex h.inText
  · exact inv_of_done h.rom rfl noError ⟨command, fun _ => hex, absurd buffer, fun _ => record⟩ h.outHex h.outHexFits fits
      h.inHex h.inText
  · exact inv_of_done h.rom rfl noError ⟨command, fun _ => hex, fun _ => text, absurd buffer⟩ h.outHex h.outHexFits
      h.outTextFits h.inHex h.inText

theorem inv_writeHex {s : State} (h : Inv s) (chars : List Char) : Inv (s.writeHex chars) := by
  by_cases tooLong : Exceeds s.config.maxHex chars.length
  · rwa [writeHex_refused tooLong]
  · rw [writeHex_accepted tooLong]
    exact { h with inHex := fits_of_not_exceeds tooLong }

theorem inv_writeText {s : State} (h : Inv s) (values : List Nat) : Inv (s.writeText values) := by
  by_cases refused : Exceeds s.config.maxText values.length ∨ ∃ v ∈ values, isScalar v = false
  · rwa [writeText_refused refused]
  · obtain ⟨fits, noneRefused⟩ := not_or.mp refused
    rw [writeText_accepted fits (by simpa using noneRefused)]
    exact { h with inText := by simpa using fits_of_not_exceeds fits }

theorem inv_hostEffect {b u : State} (h : Inv b) (effect : HostEffect b u) : Inv u := by
  have codes : CodesLegal u := codesLegal_hostEffect (codesLegal_of_inv h) effect
  cases effect with
  | quiet => exact h
  | writesHex _ chars => exact inv_writeHex h chars
  | writesText _ values => exact inv_writeText h values
  | writesRec _ r => exact { h with }
  | begins _ w =>
    exact inv_of_cleared h.rom codes (show statusBusy ≠ statusDone by decide) ⟨rfl, rfl, rfl⟩ nofun nofun h.inHex h.inText
  | resets =>
    exact inv_of_cleared h.rom codes (show statusIdle ≠ statusDone by decide) ⟨rfl, rfl, rfl⟩ (fun _ => rfl) nofun
      (fits_nil _) (fits_nil _)

/-! ### The rows of the tables -/

theorem distinct_iff_nodup {l : List Nat} : distinct l = true ↔ l.Nodup := by
  induction l with
  | nil => simp [distinct]
  | cons a l ih => simp [distinct, ih]

/-- Where at most one row meets a test, a lookup that searches for it answers that row's part. -/
theorem lookup_eq_some_iff {α β : Type} {p : α → Bool} {l : List α} {f : α → β} {b : β}
    (unique : ∀ r ∈ l, ∀ r' ∈ l, p r = true → p r' = true → r = r') :
    (l.find? p).map f = some b ↔ ∃ r ∈ l, p r = true ∧ f r = b := by
  rw [Option.map_eq_some_iff]
  constructor
  · rintro ⟨r, found, value⟩
    exact ⟨r, List.mem_of_find?_eq_some found, List.find?_some found, value⟩
  · rintro ⟨r, mem, test, value⟩
    obtain ⟨r', found⟩ := Option.isSome_iff_exists.mp (List.find?_isSome.mpr ⟨r, mem, test⟩)
    obtain rfl := unique r mem r' (List.mem_of_find?_eq_some found) test (List.find?_some found)
    exact ⟨r, found, value⟩

theorem row_unique_of_index {t : CharTable} (indices : distinct (tableIndices t) = true) (i : Septet) :
    ∀ r ∈ t, ∀ r' ∈ t, (r.1 == i) = true → (r'.1 == i) = true → r = r' := by
  intro r mem r' mem' e e'
  refine List.inj_on_of_nodup_map (distinct_iff_nodup.mp indices) mem mem' (congrArg BitVec.toNat ?_)
  rw [beq_iff_eq.mp e, beq_iff_eq.mp e']

theorem row_unique_of_char {t : CharTable} (chars : distinct (tableChars t) = true) (ch : Char) :
    ∀ r ∈ t, ∀ r' ∈ t, (r.2 == ch) = true → (r'.2 == ch) = true → r = r' := by
  intro r mem r' mem' e e'
  refine List.inj_on_of_nodup_map (distinct_iff_nodup.mp chars) mem mem' (congrArg Char.toNat ?_)
  rw [beq_iff_eq.mp e, beq_iff_eq.mp e']

/-- What 10_state.md R29 and R33 ask of the parameters, taken apart. -/
theorem wellFormed_iff {c : Config} : c.wellFormed = true ↔ (c.stdComplete = true ∧ c.stdInjective = true) ∧
    (c.extFunctional = true ∧ c.extInjective = true) ∧ c.tablesDisjoint = true ∧ c.padMapped = true ∧ c.tonComplete = true := by
  simp only [Config.wellFormed, Bool.and_eq_true]
  tauto

theorem extChar_eq_some_iff {c : Config} (functional : c.extFunctional = true) {i : Septet} {ch : Char} :
    c.extChar i = some ch ↔ (i, ch) ∈ c.gsm7Ext := by
  rw [Config.extChar, lookup_eq_some_iff (row_unique_of_index functional i)]
  simp

theorem extIndex_eq_some_iff {c : Config} (injective : c.extInjective = true) {i : Septet} {ch : Char} :
    c.extIndex ch = some i ↔ (i, ch) ∈ c.gsm7Ext ∧ ch ≠ escChar := by
  by_cases esc : ch = escChar
  · simp [Config.extIndex, esc]
  · rw [Config.extIndex, if_neg esc, lookup_eq_some_iff (row_unique_of_char injective ch)]
    simp [esc]

theorem stdIndex_eq_some_iff {c : Config} (injective : c.stdInjective = true) {i : Septet} {ch : Char} :
    c.stdIndex ch = some i ↔ (i, ch) ∈ c.gsm7Std ∧ i ≠ escIndex ∧ ch ≠ escChar := by
  by_cases esc : ch = escChar
  · simp [Config.stdIndex, esc]
  · rw [Config.stdIndex, if_neg esc, lookup_eq_some_iff fun r mem r' mem' e e' =>
      row_unique_of_char injective ch r mem r' mem' (Bool.and_elim_left e) (Bool.and_elim_left e')]
    simp [esc, and_assoc]

theorem mem_tableIndices {t : CharTable} {i : Septet} : i.toNat ∈ tableIndices t ↔ ∃ ch, (i, ch) ∈ t := by
  simp [tableIndices, BitVec.toNat_inj]

theorem mem_tableChars {t : CharTable} {ch : Char} : ch.toNat ∈ tableChars t ↔ ∃ i, (i, ch) ∈ t := by
  simp [tableChars, Char.toNat_inj]

/-- A complete GSM7_STD has a row for an index exactly when it is not the escape (10_state.md R29, 90_conflicts.md C7). -/
theorem stdComplete_row {c : Config} (complete : c.stdComplete = true) (i : Septet) :
    (∃ ch, (i, ch) ∈ c.gsm7Std) ↔ i ≠ escIndex := by
  have rows := List.all_eq_true.mp (Bool.and_elim_right complete) i.toNat (List.mem_range.mpr i.isLt)
  rw [← mem_tableIndices, ← List.contains_iff_mem, beq_iff_eq.mp rows, bne_iff_ne, ne_eq, BitVec.toNat_inj]

theorem stdChar_eq_getD (c : Config) (i : Septet) :
    c.stdChar i = ((c.gsm7Std.find? fun r => r.1 == i).map Prod.snd).getD (Config.freeStdChar i) := by
  unfold Config.stdChar
  cases c.gsm7Std.find? fun r => r.1 == i <;> rfl

theorem stdChar_eq_iff {c : Config} (complete : c.stdComplete = true) {i : Septet} {ch : Char} (noEscape : i ≠ escIndex) :
    c.stdChar i = ch ↔ (i, ch) ∈ c.gsm7Std := by
  have found (ch' : Char) :
      (c.gsm7Std.find? fun r => r.1 == i).map Prod.snd = some ch' ↔ (i, ch') ∈ c.gsm7Std := by
    rw [lookup_eq_some_iff (row_unique_of_index (Bool.and_elim_left complete) i)]
    simp
  obtain ⟨ch', row⟩ := (stdComplete_row complete i).mpr noEscape
  rw [← found, stdChar_eq_getD, (found ch').mpr row, Option.getD_some, Option.some_inj]

theorem tablesDisjoint_not_mem {c : Config} (disjoint : c.tablesDisjoint = true) {i j : Septet} {ch : Char}
    (std : (i, ch) ∈ c.gsm7Std) : (j, ch) ∉ c.gsm7Ext := by
  intro ext
  have absent := List.all_eq_true.mp disjoint ch.toNat (mem_tableChars.mpr ⟨j, ext⟩)
  simp [mem_tableChars.mpr ⟨i, std⟩] at absent

theorem stdIndex_padChar {c : Config} (complete : c.stdComplete = true) (injective : c.stdInjective = true)
    (padMapped : c.padMapped = true) : c.stdIndex padChar = some c.padIndex := by
  obtain ⟨i, row⟩ := mem_tableChars.mp (List.contains_iff_mem.mp padMapped)
  have found : c.stdIndex padChar = some i :=
    (stdIndex_eq_some_iff injective).mpr ⟨row, (stdComplete_row complete i).mp ⟨_, row⟩, by decide⟩
  rw [Config.padIndex, found, Option.getD_some]

theorem tonName_isSome {c : Config} (complete : c.tonComplete = true) (code : BitVec 3) : (c.tonName code).isSome = true := by
  have named := List.all_eq_true.mp complete code.toNat (List.mem_range.mpr code.isLt)
  simpa [Config.tonName, BitVec.toNat_inj] using named

theorem npiName_isSome_iff {c : Config} {code : Nibble} :
    (c.npiName code).isSome = true ↔ code ∈ c.npiNames.map Prod.fst := by
  simp [Config.npiName]

/-! ### The default parameters -/

theorem defaultConfig_wellFormed : defaultConfig.wellFormed = true := by decide

/-- Every row of the default GSM7_STD is an entry of 10_state.md R30. -/
theorem defaultConfig_stdRows : (defaultConfig.gsm7Std.all fun r => r.2.toNat == stdCode r.1.toNat) = true := by decide

theorem defaultConfig_stdChar {i : Septet} (noEscape : i ≠ escIndex) :
    (defaultConfig.stdChar i).toNat = stdCode i.toNat := by
  obtain ⟨⟨complete, -⟩, -⟩ := wellFormed_iff.mp defaultConfig_wellFormed
  have row : (i, defaultConfig.stdChar i) ∈ defaultConfig.gsm7Std := (stdChar_eq_iff complete noEscape).mp rfl
  exact beq_iff_eq.mp (List.all_eq_true.mp defaultConfig_stdRows _ row)

/-- The 128 entries of 10_state.md R31, mapped or UNMAPPED. -/
theorem defaultConfig_extChar : ∀ i : Septet, (defaultConfig.extChar i).map Char.toNat = extCode i.toNat := by decide

/-! ### The statements -/

/-- Settles O21: a command's end leaves a state of one of the two kinds, and so does every turn of the host. -/
theorem invariantKeptByEveryStep : Obligations.InvariantKeptByEveryStep := by
  intro s t h run
  rcases step_effect run with ⟨busy, i, command, run⟩ | ⟨busy, noCommand, rfl⟩ | effect
  · exact inv_exec h busy command run
  · exact inv_raise h busy ⟨fun _ => noCommand, fun _ => rfl⟩
  · exact inv_block.mp (inv_hostEffect (inv_block.mpr h) effect)

/-- Settles O18: neither the end of a command nor a turn of the host writes the ROM. -/
theorem romNeverChanges : Obligations.RomNeverChanges := by
  intro s t run
  rcases step_effect run with ⟨-, i, -, run⟩ | ⟨-, -, rfl⟩ | effect
  · obtain ⟨-, -, -, -, -, config, -⟩ := exec_kept run
    exact config
  · rfl
  · exact config_hostEffect (b := block s) (u := block t) effect

/-- Settles O20: error completion writes one of the four codes, and whatever else sets STATUS leaves ERRCODE 0. -/
theorem statusAndErrcodeStayLegal : Obligations.StatusAndErrcodeStayLegal := by
  intro s t h run
  rcases step_effect run with ⟨busy, i, -, run⟩ | ⟨-, -, rfl⟩ | effect
  · exact codesLegal_exec h busy run
  · exact codesLegal_raise s .illegalCommand
  · exact codesLegal_block.mp (codesLegal_hostEffect (codesLegal_block.mpr h) effect)

/-- Settles O23: by the four ends a command can come to, each of which writes its own result buffer, or STATUS and ERRCODE. -/
theorem commandFrame : Obligations.CommandFrame := by
  intro i s t run
  obtain ⟨-, kept⟩ := exec_kept run
  refine ⟨kept, ?_⟩
  rcases exec_cases i s with ⟨k, own, e⟩ | ⟨v, buffer, -, -, e⟩ | ⟨v, buffer, -, e⟩ | ⟨v, buffer, e⟩ <;>
    cases e.symm.trans run
  · exact .inr ⟨k, own, rfl⟩
  · exact .inl ⟨rfl, rfl, absurd buffer, fun _ => rfl, fun _ => rfl⟩
  · exact .inl ⟨rfl, rfl, fun _ => rfl, absurd buffer, fun _ => rfl⟩
  · exact .inl ⟨rfl, rfl, fun _ => rfl, fun _ => rfl, absurd buffer⟩

/-- Settles O34: R29's conditions make each row the only one of its index and of its character, so that a lookup finds it. -/
theorem tableLookupsAreTheRows : Obligations.TableLookupsAreTheRows := by
  intro c lawful
  obtain ⟨⟨complete, stdInjective⟩, ⟨functional, extInjective⟩, disjoint, padMapped, -⟩ := wellFormed_iff.mp lawful
  exact ⟨fun _ _ noEscape => stdChar_eq_iff complete noEscape, fun _ _ => stdIndex_eq_some_iff stdInjective,
    fun _ _ => extChar_eq_some_iff functional, fun _ _ => extIndex_eq_some_iff extInjective,
    fun _ _ _ row => tablesDisjoint_not_mem disjoint row, stdIndex_padChar complete stdInjective padMapped⟩

/-- Settles O12: a write while STATUS is not BUSY is the port's write, and each port's write stores the value or is the state
itself. -/
theorem operandPortsAcceptOrKeep : Obligations.OperandPortsAcceptOrKeep := by
  intro s rest free
  refine ⟨fun chars next fits => ?_, fun chars next tooLong => ?_, fun text next fits => ?_, fun values next refused => ?_,
    fun r next => ?_⟩
  · exact (step_hostWrite free next rfl).trans (congrArg _ (writeHex_accepted fits))
  · exact (step_hostWrite free next rfl).trans (congrArg _ (writeHex_refused tooLong))
  · rw [← List.length_map Char.toNat] at fits
    have accepted := writeText_accepted (s := { s with host := rest }) fits (by simp [isScalar_toNat])
    rw [map_ofNat_map_toNat] at accepted
    exact (step_hostWrite free next rfl).trans (congrArg _ accepted)
  · refine (step_hostWrite free next rfl).trans (congrArg _ (writeText_refused ?_))
    simpa only [isScalar_false_iff] using refused
  · exact step_hostWrite free next rfl

/-- Settles O14: by the codes' definitions. -/
theorem statusAndErrorCodes : Obligations.StatusAndErrorCodes := by
  unfold Obligations.StatusAndErrorCodes
  decide

/-- Settles O15: by the definitions of the reset state and of the reset event. -/
theorem resetValues : Obligations.ResetValues :=
  ⟨rfl, rfl, rfl, rfl, rfl, rfl, rfl, rfl, rfl, rfl, hardReset_config⟩

/-- Settles O22: the reset state has the default tables, cleared results and empty operands. -/
theorem invariantHoldsAtReset : Obligations.InvariantHoldsAtReset :=
  inv_of_cleared defaultConfig_wellFormed (by decide) (by decide) ⟨rfl, rfl, rfl⟩ (fun _ => rfl) nofun (fits_nil _)
    (fits_nil _)

/-- Settles O35: the rows are compared with the second listing one by one; the lookups follow from the tables' being lawful. -/
theorem defaultTablesAreLawful : Obligations.DefaultTablesAreLawful := by
  refine ⟨defaultConfig_wellFormed, rfl, rfl, fun _ noEscape => defaultConfig_stdChar noEscape, defaultConfig_extChar,
    fun n => ?_, by decide, if_pos rfl, if_pos rfl⟩
  exact (List.mem_map (f := BitVec.toNat) (l := defaultConfig.npiDefined)).symm

/-- Settles O58: a lawful configuration names the eight TON patterns, and the default NPI_DEFINED is the codes named. -/
theorem toaNamesFollowFromCodes : Obligations.ToaNamesFollowFromCodes := by
  refine ⟨fun c lawful code => ?_, fun code => npiName_isSome_iff, rfl, rfl⟩
  obtain ⟨-, -, -, -, tonComplete⟩ := wellFormed_iff.mp lawful
  exact tonName_isSome tonComplete code

end Sys2Proof.Proofs
end

section
/-!
PROOFS. The family 20_memory.md. First the bits of the septet view, then a turn of the host and what it sees in a register, then the
statements.
-/

namespace Sys2Proof.Proofs

open Sys2Proof Sys2Proof.Machine Sys2Proof.Claim Sys2Proof.Laws

/-! ### The bits of the octets' number -/

/-- Bit k of V is bit k mod 8 of octet k div 8 (20_memory.md R52), and zero above the octets. -/
theorem testBit_octetsValue (o : List Octet) (k : Nat) :
    (octetsValue o).testBit k = (o.getD (k / 8) 0).getLsbD (k % 8) := by
  induction o generalizing k with
  | nil => simp [octetsValue]
  | cons a rest ih =>
    rw [octetsValue, Nat.add_comm, Nat.testBit_two_pow_mul_add _ a.isLt]
    by_cases own : k < 8
    · rw [if_pos own, Nat.div_eq_of_lt own, Nat.mod_eq_of_lt own]
      rfl
    · obtain ⟨j, rfl⟩ := Nat.exists_eq_add_of_le' (not_lt.mp own)
      rw [if_neg own, Nat.add_sub_cancel, ih, Nat.add_div_right _ (by decide), Nat.add_mod_right]
      rfl

theorem unpack_getD {o : List Octet} {i : Nat} (septet : i < 8 * o.length / 7) :
    (unpack o).getD i 0 = BitVec.ofNat 7 (octetsValue o / 2 ^ (7 * i)) := by
  rw [List.getD_eq_getElem _ _ (by rwa [unpack_length])]
  simp [unpack]

/-! ### A turn of the host -/

theorem step_hostAct {s : State} {a : HostAction} {rest : List HostAction} (notEnding : ¬ Ending s)
    (next : s.host = a :: rest) : step s = hostAct a { s with host := rest } := by
  rcases step_cases s with ⟨ready, -⟩ | ⟨-, ⟨empty, -⟩ | ⟨a', rest', host, run⟩⟩
  · exact absurd ((unitReady_iff s).mp ready) notEnding
  · simp [empty] at next
  · obtain ⟨rfl, rfl⟩ := List.cons.inj (host.symm.trans next)
    exact run

theorem tick_eq (s : State) : s.tick = { s with delay := if s.status = statusBusy then s.delay - 1 else s.delay } := by
  by_cases busy : s.status = statusBusy <;> simp [State.tick, busy]

theorem readReg_eq_registerValue (s : State) (r : Reg) : s.readReg r = registerValue s r := by
  cases r <;> rfl

/-! ### The statements -/

/-- Settles O36: septet i holds the bits of V from 7i on, and each bit of V is a bit of its octet. -/
theorem unpackReadsBitsInOrder : Obligations.UnpackReadsBitsInOrder := by
  intro o i b septet bit
  calc ((unpack o).getD i 0).getLsbD b
    _ = (octetsValue o).testBit (7 * i + b) := by
      rw [unpack_getD septet, BitVec.getLsbD_ofNat, Nat.testBit_div_two_pow, Nat.add_comm b]
      simp [bit]
    _ = (o.getD ((7 * i + b) / 8) 0).getLsbD ((7 * i + b) % 8) := testBit_octetsValue o _

/-- Settles O11: a read is a turn of the host that adds the register's value to the log and lets the delay pass. -/
theorem readsHaveNoSideEffect : Obligations.ReadsHaveNoSideEffect := by
  intro s r rest notEnding next
  obtain ⟨read, -⟩ := hostAct_quiet { s with host := rest }
  rw [step_hostAct notEnding next, read, tick_eq, State.observe, readReg_eq_registerValue]
  rfl

end Sys2Proof.Proofs
end

section
/-!
PROOFS. The family 30_encoding.md. First a command word's fields in numbers and what the decoder makes of them, then the bits of
the septets' number, then the statements.
-/

namespace Sys2Proof.Proofs

open Sys2Proof Sys2Proof.Machine Sys2Proof.Claim Sys2Proof.Laws

/-! ### The fields of a word, in numbers -/

theorem fieldsOf_opcode_toNat (w : Word) : (fieldsOf w).opcode.toNat = w.toNat % 256 := by
  simp [fieldsOf]

theorem fieldsOf_p (w : Word) : (fieldsOf w).p = decide (w.toNat / 256 % 2 = 1) := by
  rw [fieldsOf, BitVec.getLsbD, Nat.testBit_eq_decide_div_mod_eq]

theorem fieldsOf_rsv_eq_zero_iff (w : Word) : (fieldsOf w).rsv = 0 ↔ w.toNat / 512 = 0 := by
  have bound := w.isLt
  rw [← BitVec.toNat_inj, fieldsOf, BitVec.extractLsb'_toNat, Nat.shiftRight_eq_div_pow]
  simp only [BitVec.ofNat_eq_ofNat, BitVec.toNat_ofNat]
  omega

theorem flagOpcode_iff {opcode : BitVec 8} :
    opcode = 0x10 ∨ opcode = 0x11 ↔ opcode.toNat = 0x10 ∨ opcode.toNat = 0x11 := by
  simp [← BitVec.toNat_inj]

/-! ### The decoder -/

theorem commandOf_isSome_iff {opcode : BitVec 8} {p : Bool} :
    (commandOf opcode p).isSome = true ↔ opcode.toNat ∈ opcodes := by
  revert opcode p
  decide

/-- The command an OPCODE selects has that OPCODE, and P as its flag where R72 allows that P. -/
theorem commandOf_eq_some {opcode : BitVec 8} {p : Bool} {i : Instr} (selected : commandOf opcode p = some i) :
    opcodeOf i = opcode ∧ (¬ (p = true ∧ ¬ (opcode = 0x10 ∨ opcode = 0x11)) → flagOf i = p) := by
  unfold commandOf at selected
  split_ifs at selected <;> cases selected <;> simp_all [opcodeOf, flagOf]

/-- The command a word's OPCODE selects, before the checks of RSV and P. -/
def selection (w : Word) : Option Instr := commandOf (fieldsOf w).opcode (fieldsOf w).p

theorem selection_isSome_iff {w : Word} : (selection w).isSome = true ↔ w.toNat % 256 ∈ opcodes := by
  rw [selection, commandOf_isSome_iff, fieldsOf_opcode_toNat]

theorem decode_of_selection_none {w : Word} (unknown : selection w = none) : decode w = .illegal .unknownOpcode := by
  rw [selection] at unknown
  simp only [decode, decodeFields, unknown]

/-- The checks of RSV and P (30_encoding.md R72), in numbers, on a word whose OPCODE selects a command. -/
theorem decode_of_selection_some {w : Word} {i : Instr} (selected : selection w = some i) :
    decode w = if w.toNat / 512 ≠ 0 then .illegal .reservedBits
      else if w.toNat / 256 % 2 = 1 ∧ ¬ (w.toNat % 256 = 0x10 ∨ w.toNat % 256 = 0x11) then .illegal .flagNotAllowed
      else .command i := by
  rw [selection] at selected
  simp only [decode, decodeFields, selected]
  simp only [ne_eq, fieldsOf_rsv_eq_zero_iff, fieldsOf_p, flagOpcode_iff, fieldsOf_opcode_toNat, decide_eq_true_eq]

/-- All 32 bits of a word that decodes to a command: RSV is 0, and OPCODE and P are the command's (30_encoding.md R75). -/
theorem fields_of_decode {w : Word} {i : Instr} (command : decode w = .command i) :
    w.toNat / 512 = 0 ∧ (opcodeOf i).toNat = w.toNat % 256 ∧ flagOf i = decide (w.toNat / 256 % 2 = 1) := by
  cases selected : selection w with
  | none => simp [decode_of_selection_none selected] at command
  | some j =>
    rw [decode_of_selection_some selected] at command
    split_ifs at command with reserved flag
    cases command
    obtain ⟨opcode, p⟩ := commandOf_eq_some selected
    rw [fieldsOf_p, decide_eq_true_eq, flagOpcode_iff, fieldsOf_opcode_toNat] at p
    exact ⟨not_not.mp reserved, opcode ▸ fieldsOf_opcode_toNat w, p flag⟩

theorem decode_command_unique {w v : Word} {i : Instr} (hw : decode w = .command i) (hv : decode v = .command i) : w = v := by
  obtain ⟨reserved, opcode, p⟩ := fields_of_decode hw
  obtain ⟨reserved', opcode', p'⟩ := fields_of_decode hv
  have sameP := decide_eq_decide.mp (p.symm.trans p')
  apply BitVec.eq_of_toNat_eq
  omega

theorem decode_encode (i : Instr) : decode (encode i) = .command i := by
  cases i with
  | dec7 strip => cases strip <;> rfl
  | enc7 pad => cases pad <;> rfl
  | _ => rfl

/-! ### The bits of the septets' number -/

/-- Bit k of V is bit k mod 7 of septet k div 7 (41_gsm7.md R125), and zero above the septets. -/
theorem testBit_septetsValue (idx : List Septet) (k : Nat) :
    (septetsValue idx).testBit k = (idx.getD (k / 7) 0).getLsbD (k % 7) := by
  induction idx generalizing k with
  | nil => simp [septetsValue]
  | cons a rest ih =>
    rw [septetsValue, Nat.add_comm, Nat.testBit_two_pow_mul_add _ a.isLt]
    split
    case isTrue own => simp [Nat.div_eq_of_lt own, Nat.mod_eq_of_lt own, BitVec.getLsbD]
    case isFalse above =>
      have above := not_lt.mp above
      rw [ih, ← Nat.mod_eq_sub_mod above, Nat.div_eq_sub_div (by decide) above, List.getD_cons_succ]

theorem pack_getD {idx : List Septet} {j : Nat} (octet : j < octetCount idx.length) :
    (pack idx).getD j 0 = BitVec.ofNat 8 (septetsValue idx / 2 ^ (8 * j)) := by
  rw [List.getD_eq_getElem _ _ (by rwa [pack_length])]
  simp [pack]

/-! ### The statements -/

/-- Settles O2: the encoded word decodes to its command, and the fields of a word that does fix all its bits. -/
theorem decodeExactlyTheEncodedWord : Obligations.DecodeExactlyTheEncodedWord := by
  intro w i
  constructor
  · intro command
    exact decode_command_unique command (decode_encode i)
  · rintro rfl
    exact decode_encode i

/-- Settles O3: an OPCODE of R71 selects a command, and the checks of RSV and P then come in R72's order. -/
theorem decodeClassifiesEveryWord : Obligations.DecodeClassifiesEveryWord := by
  intro w
  cases selected : selection w with
  | none =>
    have unknown : w.toNat % 256 ∉ opcodes := by simp [← selection_isSome_iff, selected]
    exact ⟨fun _ => decode_of_selection_none selected, (absurd · unknown), (absurd · unknown), (absurd ·.1 unknown)⟩
  | some i =>
    have known : w.toNat % 256 ∈ opcodes := by simp [← selection_isSome_iff, selected]
    have checks := decode_of_selection_some selected
    refine ⟨absurd known, fun _ reserved => ?_, fun _ noReserved p notAllowed => ?_, fun ⟨_, noReserved, allowed⟩ => ?_⟩
    · rw [checks, if_pos reserved]
    · rw [checks, if_neg (not_not.mpr noReserved), if_pos ⟨p, notAllowed⟩]
    · rw [if_neg (not_not.mpr noReserved), if_neg (fun ⟨p, notAllowed⟩ => notAllowed (allowed p))] at checks
      exact ⟨i, checks, (fields_of_decode checks).2⟩

/-- Settles O37: octet j holds the bits of V from 8j on, and each bit of V is a bit of its septet. -/
theorem packWritesBitsInOrder : Obligations.PackWritesBitsInOrder := by
  refine fun idx => ⟨pack_length idx, fun j b octet bit => ?_⟩
  calc ((pack idx).getD j 0).getLsbD b
    _ = (septetsValue idx).testBit (8 * j + b) := by
      rw [pack_getD octet, BitVec.getLsbD_ofNat, Nat.testBit_div_two_pow, Nat.add_comm b]
      simp [bit]
    _ = (idx.getD ((8 * j + b) / 7) 0).getLsbD ((8 * j + b) % 7) := testBit_septetsValue idx _

/-- Settles O1: by evaluation of the decoder on each of the words. -/
theorem specWordsDecode : Obligations.SpecWordsDecode := by
  unfold Obligations.SpecWordsDecode
  decide

/-- Settles O13: a wait is a turn of the host, which puts the wait back and lets the delay pass while STATUS is BUSY. -/
theorem waitPollsUntilNotBusy : Obligations.WaitPollsUntilNotBusy := by
  intro s rest next
  obtain ⟨-, -, waitBusy, waitFree⟩ := hostAct_quiet { s with host := rest }
  refine ⟨fun free => ?_, fun busy delayed => ?_⟩
  · rw [step_hostAct (fun ⟨busy, _⟩ => free busy) next, waitFree free]
  · rw [step_hostAct (fun ⟨_, ended⟩ => delayed ended) next, waitBusy busy, tick_eq]
    simp [busy, next]

end Sys2Proof.Proofs
end

section
/-!
PROOFS. The family 40_nibble_octet.md. First the swap of pairs against the reversal of a list, then what REVO and SWPN answer, then
the statements.
-/

namespace Sys2Proof.Proofs

open Sys2Proof Sys2Proof.Machine Sys2Proof.Claim Sys2Proof.Laws

/-! ### The swap of pairs and the reversal -/

/-- Induction over a string of whole pairs: `pairInduction` without its odd end. -/
theorem evenInduction {p : (h : HexString) → h.length % 2 = 0 → Prop} (nil : p [] rfl)
    (pair : ∀ a b rest (even : rest.length % 2 = 0) (evenPair : (a :: b :: rest).length % 2 = 0),
      p rest even → p (a :: b :: rest) evenPair) (h : HexString) (even : h.length % 2 = 0) : p h even := by
  induction h using pairInduction with
  | nil => exact nil
  | one c => simp at even
  | pair a b rest ih =>
    have evenRest : rest.length % 2 = 0 := by simp only [List.length_cons] at even; omega
    exact pair a b rest evenRest even (ih evenRest)

/-- REVO's function is SWPN's and the full reversal, in either order (40_nibble_octet.md R106); here for every string. -/
theorem reverseOctets_eq_reverse_swapNibbles (h : HexString) : reverseOctets h = (swapNibbles h).reverse := by
  induction h using pairInduction with
  | nil => rfl
  | one c => rfl
  | pair a b rest ih => simp [reverseOctets, swapNibbles, ih]

theorem reversedPairs_eq_reverseOctets (h : HexString) : reversedPairs h = reverseOctets h := by
  rw [reverseOctets_eq_reverse_swapNibbles, ← swapped_eq_swapNibbles, swapped, List.reverse_flatMap]
  rfl

theorem swapNibbles_swapNibbles {h : HexString} (even : h.length % 2 = 0) : swapNibbles (swapNibbles h) = h := by
  induction h, even using evenInduction with
  | nil => rfl
  | pair a b rest _ _ ih => rw [swapNibbles, swapNibbles, ih]

theorem swapNibbles_append {h : HexString} (even : h.length % 2 = 0) (k : HexString) :
    swapNibbles (h ++ k) = swapNibbles h ++ swapNibbles k := by
  induction h, even using evenInduction with
  | nil => rfl
  | pair a b rest _ _ ih => simp only [List.cons_append, swapNibbles, ih]

theorem swapNibbles_reverse {h : HexString} (even : h.length % 2 = 0) :
    swapNibbles h.reverse = (swapNibbles h).reverse := by
  induction h, even using evenInduction with
  | nil => rfl
  | pair a b rest even _ ih =>
    calc swapNibbles (a :: b :: rest).reverse
      _ = swapNibbles (rest.reverse ++ [b, a]) := by simp
      _ = swapNibbles rest.reverse ++ [a, b] := swapNibbles_append (by rw [List.length_reverse, even]) _
      _ = (swapNibbles (a :: b :: rest)).reverse := by simp [ih, swapNibbles]

theorem reverseOctets_swapNibbles {h : HexString} (even : h.length % 2 = 0) :
    reverseOctets (swapNibbles h) = h.reverse := by
  rw [reverseOctets_eq_reverse_swapNibbles, swapNibbles_swapNibbles even]

theorem swapNibbles_reverseOctets {h : HexString} (even : h.length % 2 = 0) :
    swapNibbles (reverseOctets h) = h.reverse := by
  have evenSwapped : (swapNibbles h).length % 2 = 0 := by rw [swapNibbles_length]; omega
  rw [reverseOctets_eq_reverse_swapNibbles, swapNibbles_reverse evenSwapped, swapNibbles_swapNibbles even]

theorem reverseOctets_reverseOctets {h : HexString} (even : h.length % 2 = 0) :
    reverseOctets (reverseOctets h) = h := by
  rw [reverseOctets_eq_reverse_swapNibbles, swapNibbles_reverseOctets even, List.reverse_reverse]

/-! ### What REVO and SWPN answer -/

/-- REVO as `exec` runs it: its function's answer on IN_HEX completes the command (40_nibble_octet.md R104). -/
theorem exec_revo (s : State) : exec .revo s = .next (s.finishHex (revo s.inHex)) := rfl

/-- SWPN as `exec` runs it: its function's answer on IN_HEX completes the command (40_nibble_octet.md R105). -/
theorem exec_swpn (s : State) : exec .swpn s = .next (s.finishHex (swpn s.inHex)) := rfl

theorem revo_of_hexPairs {h : HexString} (p : HexPairs h) : revo h = .ok (reverseOctets h) :=
  (revo_cases h).elim And.left fun refused => absurd p refused.2

theorem revo_of_not_hexPairs {h : HexString} (p : ¬ HexPairs h) : revo h = .error .malformed :=
  (revo_cases h).elim (fun accepted => absurd accepted.2 p) And.left

theorem swpn_of_hexPairs {h : HexString} (p : HexPairs h) : swpn h = .ok (swapNibbles h) :=
  (swpn_cases h).elim And.left fun refused => absurd p refused.2

theorem swpn_of_not_hexPairs {h : HexString} (p : ¬ HexPairs h) : swpn h = .error .malformed :=
  (swpn_cases h).elim (fun accepted => absurd accepted.2 p) And.left

theorem exec_revo_result {s t : State} (p : HexPairs s.inHex) (run : exec .revo s = .next t) :
    t.status = statusDone ∧ t.outHex = reverseOctets s.inHex := by
  rw [exec_revo, revo_of_hexPairs p] at run
  cases run
  exact ⟨rfl, rfl⟩

theorem exec_swpn_result {s t : State} (p : HexPairs s.inHex) (run : exec .swpn s = .next t) :
    t.status = statusDone ∧ t.outHex = swapNibbles s.inHex := by
  rw [exec_swpn, swpn_of_hexPairs p] at run
  cases run
  exact ⟨rfl, rfl⟩

/-! ### The statements -/

/-- Settles O31: what REVO's function accepts is the operand of the statement, and its result is the pairs by index. -/
theorem revoReversesOctets : Obligations.RevoReversesOctets := by
  refine ⟨rfl, fun s => ⟨fun operand => ?_, fun refused => ?_⟩⟩
  · rw [exec_revo, revo_of_hexPairs (hexOperand_iff_hexPairs.mp operand), reversedPairs_eq_reverseOctets]
    rfl
  · rw [exec_revo, revo_of_not_hexPairs (mt hexOperand_iff_hexPairs.mpr refused), finishHex_error, failed_eq_raise]

/-- Settles O32: what SWPN's function accepts is the operand of the statement, and its result is the swapped pairs by index. -/
theorem swpnSwapsNibbles : Obligations.SwpnSwapsNibbles := by
  refine ⟨rfl, fun s => ⟨fun operand => ?_, fun refused => ?_⟩⟩
  · rw [exec_swpn, swpn_of_hexPairs (hexOperand_iff_hexPairs.mp operand), swapped_eq_swapNibbles]
    rfl
  · rw [exec_swpn, swpn_of_not_hexPairs (mt hexOperand_iff_hexPairs.mpr refused), finishHex_error, failed_eq_raise]

/-- Settles O33: each result is again an accepted operand, so the second command completes, and the laws of the two functions
give its result. -/
theorem nibbleUtilityLaws : Obligations.NibbleUtilityLaws := by
  intro s r w rr ww rw wr operand runR runW runRR runWW runRW runWR
  have p := hexOperand_iff_hexPairs.mp operand
  have ⟨digits, even⟩ := p
  obtain ⟨-, outR⟩ := exec_revo_result p runR
  obtain ⟨-, outW⟩ := exec_swpn_result p runW
  have pR : HexPairs r.outHex := outR ▸ hexPairs_reverseOctets digits
  have pW : HexPairs w.outHex := outW ▸ hexPairs_swapNibbles digits
  obtain ⟨doneRR, outRR⟩ := exec_revo_result pR runRR
  obtain ⟨doneWW, outWW⟩ := exec_swpn_result pW runWW
  obtain ⟨doneRW, outRW⟩ := exec_revo_result pW runRW
  obtain ⟨doneWR, outWR⟩ := exec_swpn_result pR runWR
  simp only [outR, outW] at outRR outWW outRW outWR
  refine ⟨⟨doneRR, ?_⟩, ⟨doneWW, ?_⟩, ⟨doneRW, doneWR, ?_, ?_⟩, ?_, ?_⟩
  · rw [outRR, reverseOctets_reverseOctets even]
  · rw [outWW, swapNibbles_swapNibbles even]
  · rw [outRW, reverseOctets_swapNibbles even]
  · rw [outWR, swapNibbles_reverseOctets even]
  · rw [outR, reverseOctets_length, p.two_mul_half]
  · rw [outW, swapNibbles_length, p.two_mul_half]

end Sys2Proof.Proofs
end

section
/-!
PROOFS. The family 41_gsm7.md. First the claims' formulas against the functions of Machine/, half by half, then what DEC7 and ENC7
answer, then what DEC7 reads of a packed text, then the statements.
-/

namespace Sys2Proof.Proofs

open Sys2Proof Sys2Proof.Machine Sys2Proof.Claim Sys2Proof.Laws

/-! ### Septets by index -/

theorem septets_ext {l l' : List Septet} (sameLength : l.length = l'.length)
    (same : ∀ i < l.length, ∀ b < 7, (l.getD i 0).getLsbD b = (l'.getD i 0).getLsbD b) : l = l' := by
  refine List.ext_getElem sameLength fun i inL inL' => ?_
  rw [← List.getD_eq_getElem l 0 inL, ← List.getD_eq_getElem l' 0 inL']
  exact BitVec.eq_of_getLsbD_eq fun b bit => same i inL b bit

/-- A number's digits in base 2^w, summed by index: the lowest digit, and the rest one digit up. -/
theorem sum_range_digits (w : Nat) (digit : Nat → Nat) (n : Nat) :
    ((List.range (n + 1)).map fun i => digit i * 2 ^ (w * i)).sum =
      digit 0 + 2 ^ w * ((List.range n).map fun i => digit (i + 1) * 2 ^ (w * i)).sum := by
  rw [List.range_succ_eq_map, List.map_cons, List.sum_cons, List.map_map, ← List.sum_map_mul_left]
  congr 2
  · simp
  · refine List.map_congr_left fun i _ => ?_
    rw [Function.comp_apply, Nat.succ_eq_add_one, Nat.mul_add_one, pow_add]
    ring

/-! ### DEC7's formulas -/

theorem val_eq_hexVal {c : Char} (digit : isHex c = true) : val c = hexVal c :=
  forall_isHex (p := fun c => val c = hexVal c) (by simp [hexDigits, hexVal, val, List.idxOf_cons]) digit

theorem octetOf_toNat {hi lo : Char} (hiDigit : isHex hi = true) (loDigit : isHex lo = true) :
    (octetOf hi lo).toNat = 16 * val hi + val lo := by
  have := hexVal_lt hiDigit
  have := hexVal_lt loDigit
  rw [octetOf, BitVec.toNat_ofNat, val_eq_hexVal hiDigit, val_eq_hexVal loDigit]
  omega

/-- V of 41_gsm7.md R121 by index is the number of the octets. -/
theorem packedValue_eq_octetsValue {h : HexString} (digits : ∀ c ∈ h, isHex c = true) :
    packedValue h = octetsValue (octets h) := by
  induction h using pairInduction with
  | nil => rfl
  | one c => simp [packedValue, octets, octetsValue]
  | pair a b rest ih =>
    obtain ⟨aDigit, bDigit, restDigits⟩ := by simpa using digits
    have half : (a :: b :: rest).length / 2 = rest.length / 2 + 1 := by simp only [List.length_cons]; omega
    rw [packedValue, half, sum_range_digits, octets, octetsValue, octetOf_toNat aDigit bDigit, ← ih restDigits]
    rfl

theorem septetList_eq_unpack {h : HexString} (digits : ∀ c ∈ h, isHex c = true) :
    septetList h = (unpack (octets h)).map BitVec.toNat := by
  simp [septetList, unpack, octets_length, packedValue_eq_octetsValue digits, Function.comp_def]

theorem foldl_septetLoop (c : Config) (l : List Septet) (t : Text) (esc : Bool) :
    ((l.map BitVec.toNat).foldl (septetLoop c) (t, esc)).1 = t ++ mapSeptets c esc l := by
  induction l generalizing t esc with
  | nil => simp [mapSeptets]
  | cons i rest ih =>
    have isEscape : i.toNat = 0x1B ↔ i = escIndex := by simp [escIndex, ← BitVec.toNat_inj]
    rw [List.map_cons, List.foldl_cons, septetLoop, mapSeptets, BitVec.ofNat_toNat, BitVec.setWidth_eq]
    simp only [isEscape]
    split_ifs <;> rw [ih] <;> simp [extDefault]

theorem mappedText_eq_mapSeptets (c : Config) (l : List Septet) :
    mappedText c (l.map BitVec.toNat) = mapSeptets c false l := foldl_septetLoop c l [] false

theorem stripped_eq_stripPad (strip : Bool) (t : Text) (m : Nat) :
    stripped strip t m = if strip then stripPad t m else t := by
  cases strip with
  | false => simp [stripped]
  | true =>
    simp only [stripped, stripPad, true_and]
    rfl

theorem decodedText_eq {c : Config} {h : HexString} (digits : ∀ c ∈ h, isHex c = true) (strip : Bool) :
    decodedText c strip h = stripped strip (mapSeptets c false (unpack (octets h))) (unpack (octets h)).length := by
  rw [decodedText, septetList_eq_unpack digits, mappedText_eq_mapSeptets, List.length_map]

theorem mapSeptets_length_le (c : Config) (esc : Bool) (l : List Septet) : (mapSeptets c esc l).length ≤ l.length := by
  induction l generalizing esc with
  | nil => rfl
  | cons i rest ih =>
    rw [mapSeptets]
    split_ifs
    · exact Nat.succ_le_succ (ih false)
    · exact Nat.le_succ_of_le (ih true)
    · exact Nat.succ_le_succ (ih false)

theorem stripped_length_le (strip : Bool) (t : Text) (m : Nat) : (stripped strip t m).length ≤ t.length := by
  rw [stripped]
  split_ifs <;> simp

theorem decodedText_length_le {c : Config} {h : HexString} (digits : ∀ c ∈ h, isHex c = true) (strip : Bool) :
    (decodedText c strip h).length ≤ 8 * (h.length / 2) / 7 := by
  rw [decodedText_eq digits, ← octets_length, ← unpack_length]
  exact (stripped_length_le _ _ _).trans (mapSeptets_length_le _ _ _)

/-! ### ENC7's formulas -/

theorem indexLoop_some (c : Config) (sofar : List Septet) (ch : Char) :
    indexLoop c (some sofar) ch = (charIndices c ch).map (sofar ++ ·) := by
  rw [charIndices]
  cases std : c.stdIndex ch with
  | some i => simp [indexLoop, std]
  | none => cases ext : c.extIndex ch <;> simp [indexLoop, std, ext, escIndex]

theorem indices_cons_toOption (c : Config) (ch : Char) (t : Text) :
    (indices c (ch :: t)).toOption =
      (charIndices c ch).bind fun own => (indices c t).toOption.map (own ++ ·) := by
  rw [indices]
  cases charIndices c ch with
  | none => rfl
  | some own => cases indices c t <;> rfl

/-- The loop of 41_gsm7.md R127 on the indices so far, as the recursion on the text. -/
theorem foldl_indexLoop (c : Config) (t : Text) (acc : Option (List Septet)) :
    t.foldl (indexLoop c) acc = acc.bind fun sofar => (indices c t).toOption.map (sofar ++ ·) := by
  induction t generalizing acc with
  | nil => cases acc <;> simp [indices, Except.toOption]
  | cons ch rest ih =>
    rw [List.foldl_cons, ih]
    cases acc with
    | none => rfl
    | some sofar =>
      simp only [indexLoop_some, indices_cons_toOption, Option.bind_some]
      cases charIndices c ch <;> simp [Function.comp_def]

theorem indexList_eq_indices (c : Config) (t : Text) : indexList c t = (indices c t).toOption := by
  simp [indexList, foldl_indexLoop]

theorem indexList_eq_some_iff {c : Config} {t : Text} {idx : List Septet} :
    indexList c t = some idx ↔ indices c t = .ok idx := by
  rw [indexList_eq_indices]
  cases indices c t <;> simp [Except.toOption]

theorem indexList_eq_none_iff {c : Config} {t : Text} :
    indexList c t = none ↔ indices c t = .error .encoding := by
  rw [indexList_eq_indices]
  cases e : indices c t with
  | ok idx => simp [Except.toOption]
  | error k => simp [Except.toOption, indices_error e]

/-- Of R128's two conditions at most one applies, so one choice of a PAD says both. -/
theorem padded_eq_addPad (c : Config) (pad : Bool) (idx : List Septet) (t : Text) :
    padded c pad idx t = if pad then addPad c idx t else idx := by
  cases pad with
  | false => simp [padded]
  | true =>
    have carriageReturn : Char.ofNat 0x0D = padChar := rfl
    simp only [padded, addPad, carriageReturn, true_and, if_true]
    by_cases ends : idx.length % 8 = 0 ∧ t.getLast? = some padChar
    · have once : ¬ (idx ++ [c.padIndex]).length % 8 = 7 := by rw [List.length_append, List.length_singleton]; omega
      rw [if_pos (.inl ends), if_pos ends, if_neg once]
    · simp only [if_neg ends, or_iff_right ends]

theorem septetsSum_eq_septetsValue (idx : List Septet) :
    ((List.range idx.length).map fun i => (idx.getD i 0).toNat * 2 ^ (7 * i)).sum = septetsValue idx := by
  induction idx with
  | nil => rfl
  | cons a rest ih =>
    rw [List.length_cons, sum_range_digits 7 fun i => ((a :: rest).getD i 0).toNat, septetsValue, ← ih]
    rfl

theorem hexChar_eq_digitOf (v : Nibble) : hexChar v = digitOf v.toNat := by
  revert v
  decide

theorem hexOctet_eq_digits (v : Nat) :
    hexOctet (BitVec.ofNat 8 v) = [digitOf (v % 256 / 16), digitOf (v % 256 % 16)] := by
  simp only [hexOctet, hexChar_eq_digitOf, BitVec.extractLsb'_toNat, BitVec.toNat_ofNat, Nat.shiftRight_eq_div_pow]
  congr 2 <;> congr 1 <;> omega

theorem hexOf_eq_flatMap (o : List Octet) : hexOf o = o.flatMap hexOctet := by
  induction o with
  | nil => rfl
  | cons a rest ih => rw [hexOf, ih, List.flatMap_cons]

theorem packedHex_eq_hexOf_pack (idx : List Septet) : packedHex idx = hexOf (pack idx) := by
  rw [packedHex, hexOf_eq_flatMap, pack, List.flatMap_map]
  simp only [hexOctet_eq_digits, septetsSum_eq_septetsValue]
  rfl

theorem packedHex_length (idx : List Septet) : (packedHex idx).length = 2 * octetCount idx.length := by
  rw [packedHex_eq_hexOf_pack, hexOf_length, pack_length, octetCount]

/-! ### What DEC7 and ENC7 answer -/

theorem exec_dec7 (strip : Bool) (s : State) : exec (.dec7 strip) s = .next (s.finishText (dec7 s.config strip s.inHex)) := rfl

theorem exec_enc7 (pad : Bool) (s : State) : exec (.enc7 pad) s = .next (s.finishHex (enc7 s.config pad s.inText)) := rfl

/-- On a well-formed operand DEC7 is its text under the capacity check (41_gsm7.md R120, D8). -/
theorem dec7_of_hexPairs (c : Config) (strip : Bool) {h : HexString} (p : HexPairs h) :
    dec7 c strip h = (do checkCapacity c.maxText (decodedText c strip h).length; return decodedText c strip h) := by
  simp only [decodedText_eq p.1, stripped_eq_stripPad, dec7, checkHex_ok_iff.mpr p]
  rfl

theorem dec7_ok {c : Config} {strip : Bool} {h : HexString} (p : HexPairs h)
    (fits : Fits c.maxText (decodedText c strip h).length) : dec7 c strip h = .ok (decodedText c strip h) := by
  rw [dec7_of_hexPairs c strip p, checkCapacity_ok fits]
  rfl

theorem dec7_tooLong {c : Config} {strip : Bool} {h : HexString} (p : HexPairs h)
    (tooLong : ¬ Fits c.maxText (decodedText c strip h).length) : dec7 c strip h = .error .malformed := by
  rw [dec7_of_hexPairs c strip p, checkCapacity_error tooLong]
  rfl

theorem dec7_of_not_hexPairs (c : Config) (strip : Bool) {h : HexString} (p : ¬ HexPairs h) :
    dec7 c strip h = .error .malformed := by
  obtain ⟨ok, -⟩ | ⟨refused, -⟩ := checkHex_cases h
  · exact absurd (checkHex_ok_iff.mp ok) p
  · rw [dec7, refused]
    rfl

/-- On an encodable text ENC7 is its digits under the capacity check (41_gsm7.md R126, D8). -/
theorem enc7_of_indices (pad : Bool) {c : Config} {t : Text} {idx : List Septet} (encodable : indices c t = .ok idx) :
    enc7 c pad t = (do checkCapacity c.maxHex (2 * octetCount (padded c pad idx t).length)
                       return packedHex (padded c pad idx t)) := by
  simp only [enc7, encodable, pack_length, octetCount, packedHex_eq_hexOf_pack, padded_eq_addPad]
  rfl

theorem enc7_ok {c : Config} {pad : Bool} {t : Text} {idx : List Septet} (encodable : indices c t = .ok idx)
    (fits : Fits c.maxHex (2 * octetCount (padded c pad idx t).length)) :
    enc7 c pad t = .ok (packedHex (padded c pad idx t)) := by
  rw [enc7_of_indices pad encodable, checkCapacity_ok fits]
  rfl

theorem enc7_tooLong {c : Config} {pad : Bool} {t : Text} {idx : List Septet} (encodable : indices c t = .ok idx)
    (tooLong : ¬ Fits c.maxHex (2 * octetCount (padded c pad idx t).length)) : enc7 c pad t = .error .malformed := by
  rw [enc7_of_indices pad encodable, checkCapacity_error tooLong]
  rfl

theorem enc7_unencodable (pad : Bool) {c : Config} {t : Text} (unencodable : indices c t = .error .encoding) :
    enc7 c pad t = .error .encoding := by
  rw [enc7, unencodable]
  rfl

theorem exec_enc7_result {s e : State} {pad : Bool} {idx : List Septet} (encodable : indices s.config s.inText = .ok idx)
    (run : exec (.enc7 pad) s = .next e) (done : e.status = statusDone) :
    e.outHex = packedHex (padded s.config pad idx s.inText) ∧ e.config = s.config := by
  by_cases fits : Fits s.config.maxHex (2 * octetCount (padded s.config pad idx s.inText).length)
  · rw [exec_enc7, enc7_ok encodable fits] at run
    cases run
    exact ⟨rfl, rfl⟩
  · rw [exec_enc7, enc7_tooLong encodable fits] at run
    cases run
    exact absurd done (by simp [statusError, statusDone])

/-! ### What DEC7 reads of a packed text -/

theorem octetOf_hexOctet (o : Octet) : octetOf (hexChar (o.extractLsb' 4 4)) (hexChar (o.extractLsb' 0 4)) = o := by
  simp only [octetOf, hexVal_hexChar]
  revert o; decide

theorem octets_hexOf (o : List Octet) : octets (hexOf o) = o := by
  induction o with
  | nil => rfl
  | cons a rest ih =>
    calc octets (hexOf (a :: rest))
      _ = octetOf (hexChar (a.extractLsb' 4 4)) (hexChar (a.extractLsb' 0 4)) :: octets (hexOf rest) := rfl
      _ = a :: rest := by rw [octetOf_hexOctet, ih]

/-- For m = 8q + r indices there are 7q + r octets (41_gsm7.md R125). -/
theorem octetCount_eq (m : Nat) : octetCount m = 7 * (m / 8) + m % 8 := by
  rw [octetCount]
  omega

/-- Packed septets are read back, and the seven spare bits of a count of 8q+7 as one more septet 0 (90_conflicts.md C10). -/
theorem unpack_pack (l : List Septet) : unpack (pack l) = l ++ if l.length % 8 = 7 then [0] else [] := by
  have octetsCount : (pack l).length = octetCount l.length := pack_length l
  have septetsCount : 8 * (pack l).length / 7 = l.length + if l.length % 8 = 7 then 1 else 0 := by
    rw [octetsCount, octetCount_eq]
    split_ifs <;> omega
  apply septets_ext
  · rw [unpack_length, septetsCount, List.length_append, apply_ite List.length]
    rfl
  · intro i septet b bit
    rw [unpack_length] at septet
    rw [unpackReadsBitsInOrder _ i b septet bit,
      (packWritesBitsInOrder l).2 _ _ (by omega) (Nat.mod_lt _ (by decide)), Nat.div_add_mod,
      Nat.mul_add_div (by decide), Nat.div_eq_of_lt bit, Nat.mul_add_mod, Nat.mod_eq_of_lt bit, Nat.add_zero]
    congr 1
    by_cases inL : i < l.length
    · rw [List.getD_append _ _ _ _ inL]
    · have first : i - l.length = 0 := by split_ifs at septetsCount <;> omega
      rw [List.getD_append_right _ _ _ _ (not_lt.mp inL), List.getD_eq_default _ _ (not_lt.mp inL), first]
      split_ifs <;> rfl

theorem mapSeptets_charIndices {c : Config} (lawful : c.wellFormed = true) {ch : Char} {l : List Septet}
    (encodable : charIndices c ch = some l) (rest : List Septet) :
    mapSeptets c false (l ++ rest) = ch :: mapSeptets c false rest := by
  obtain ⟨⟨complete, stdInjective⟩, ⟨functional, extInjective⟩, -⟩ := wellFormed_iff.mp lawful
  rw [charIndices] at encodable
  cases std : c.stdIndex ch with
  | some i =>
    obtain ⟨row, noEscape, -⟩ := (stdIndex_eq_some_iff stdInjective).mp std
    obtain rfl : [i] = l := by simpa [std] using encodable
    simp [mapSeptets, noEscape, (stdChar_eq_iff complete noEscape).mpr row]
  | none =>
    cases ext : c.extIndex ch with
    | some i =>
      obtain ⟨row, -⟩ := (extIndex_eq_some_iff extInjective).mp ext
      obtain rfl : [escIndex, i] = l := by simpa [std, ext] using encodable
      simp [mapSeptets, (extChar_eq_some_iff functional).mpr row]
    | none => simp [std, ext] at encodable

/-- The indices of a text are read as the text, with the escape latch clear after them (41_gsm7.md R123, R127). -/
theorem mapSeptets_indices {c : Config} (lawful : c.wellFormed = true) {t : Text} {idx : List Septet}
    (encodable : indices c t = .ok idx) (rest : List Septet) :
    mapSeptets c false (idx ++ rest) = t ++ mapSeptets c false rest := by
  induction t generalizing idx with
  | nil =>
    cases encodable
    rfl
  | cons ch t ih =>
    rw [← indexList_eq_some_iff, indexList_eq_indices, indices_cons_toOption, Option.bind_eq_some_iff] at encodable
    obtain ⟨own, ownIndices, encodable⟩ := encodable
    rw [← indexList_eq_indices, Option.map_eq_some_iff] at encodable
    obtain ⟨idx', restIndices, rfl⟩ := encodable
    rw [List.append_assoc, mapSeptets_charIndices lawful ownIndices, ih (indexList_eq_some_iff.mp restIndices),
      List.cons_append]

theorem indices_length_pos {c : Config} (lawful : c.wellFormed = true) {t : Text} {idx : List Septet}
    (encodable : indices c t = .ok idx) (nonempty : t ≠ []) :
    0 < idx.length := by
  rw [List.length_pos_iff]
  rintro rfl
  exact nonempty (by simpa [mapSeptets] using (mapSeptets_indices lawful encodable []).symm)

/-- DEC7 reads the septets ENC7 packed, and the spare bits of a count of 8q+7 as a septet 0. -/
theorem decodedText_packedHex (c : Config) (strip : Bool) (l : List Septet) :
    decodedText c strip (packedHex l) =
      stripped strip (mapSeptets c false (l ++ if l.length % 8 = 7 then [0] else []))
        (l ++ if l.length % 8 = 7 then [0] else []).length := by
  rw [packedHex_eq_hexOf_pack, decodedText_eq (hexPairs_hexOf _).1, octets_hexOf, unpack_pack]

theorem stripped_of_kept {strip : Bool} {t : Text} {m : Nat} (kept : ¬ (m % 8 = 0 ∧ t.getLast? = some padChar)) :
    stripped strip t m = t :=
  if_neg fun ⟨_, drops⟩ => kept drops

theorem stripped_concat_padChar (strip : Bool) (t : Text) {m : Nat} (whole : m % 8 = 0) :
    stripped strip (t ++ [padChar]) m = if strip = true then t else t ++ [padChar] := by
  cases strip with
  | false => rfl
  | true => simp [stripped_eq_stripPad, stripPad, whole]

section
variable {c : Config} {t : Text} {idx : List Septet} (lawful : c.wellFormed = true) (encodable : indices c t = .ok idx)
include lawful encodable

theorem decodedText_of_indices (strip : Bool) (noSpare : idx.length % 8 ≠ 7) :
    decodedText c strip (packedHex idx) = stripped strip t idx.length := by
  have read := mapSeptets_indices lawful encodable []
  rw [decodedText_packedHex, if_neg noSpare, read, List.append_nil, mapSeptets, List.append_nil]

theorem decodedText_of_indices_spare (spare : idx.length % 8 = 7) :
    decodedText c false (packedHex idx) = t ++ [c.stdChar 0] := by
  rw [decodedText_packedHex, if_pos spare, mapSeptets_indices lawful encodable]
  rfl

theorem decodedText_of_indices_pad (strip : Bool) (noSpare : (idx.length + 1) % 8 ≠ 7) :
    decodedText c strip (packedHex (idx ++ [c.padIndex])) = stripped strip (t ++ [padChar]) (idx.length + 1) := by
  obtain ⟨⟨complete, stdInjective⟩, -, -, padMapped, -⟩ := wellFormed_iff.mp lawful
  have pad := stdIndex_padChar complete stdInjective padMapped
  have readPad : mapSeptets c false [c.padIndex] = [padChar] :=
    mapSeptets_charIndices lawful (ch := padChar) (l := [c.padIndex]) (by simp [charIndices, pad]) []
  rw [decodedText_packedHex, List.length_append, List.length_singleton, if_neg noSpare, List.append_nil,
    mapSeptets_indices lawful encodable, readPad, List.length_append, List.length_singleton]

/-- Law (a) of 41_gsm7.md R129. -/
theorem decodedText_plain :
    decodedText c false (packedHex (padded c false idx t)) = roundTrip c false false t idx.length := by
  have noPad : padded c false idx t = idx := by simp [padded]
  rw [noPad]
  by_cases spare : idx.length % 8 = 7
  · simp [decodedText_of_indices_spare lawful encodable spare, roundTrip, spare]
  · simp [decodedText_of_indices lawful encodable false spare, stripped, roundTrip, spare]

/-- Laws (b) and (c) of 41_gsm7.md R129. -/
theorem decodedText_padded (strip : Bool) :
    decodedText c strip (packedHex (padded c true idx t)) = roundTrip c true strip t idx.length := by
  by_cases doubled : idx.length % 8 = 0 ∧ t.getLast? = some padChar
  · have nonempty : 0 < idx.length := indices_length_pos lawful encodable (by rintro rfl; simp at doubled)
    have appended : padded c true idx t = idx ++ [c.padIndex] := if_pos ⟨rfl, .inl doubled⟩
    rw [appended, decodedText_of_indices_pad lawful encodable strip (by omega), stripped_of_kept (by omega)]
    simp [roundTrip, doubled, nonempty, padChar]
  by_cases spare : idx.length % 8 = 7
  · have appended : padded c true idx t = idx ++ [c.padIndex] := if_pos ⟨rfl, .inr spare⟩
    rw [appended, decodedText_of_indices_pad lawful encodable strip (by omega), stripped_concat_padChar _ _ (by omega)]
    simp [roundTrip, spare, padChar]
  · have unchanged : padded c true idx t = idx := if_neg fun ⟨_, pads⟩ => pads.elim doubled spare
    rw [unchanged, decodedText_of_indices lawful encodable strip spare, stripped_of_kept doubled]
    have notDoubled : ¬ (idx.length % 8 = 0 ∧ 0 < idx.length ∧ t.getLast? = some (Char.ofNat 0x0D)) :=
      fun ⟨whole, _, ends⟩ => doubled ⟨whole, ends⟩
    simp [roundTrip, notDoubled, spare]

end

/-! ### The statements -/

/-- Settles O38: the count is R122's arithmetic, and every bit of every septet is one of the bits on which the two agree. -/
theorem septetCountAndLeftoverBits : Obligations.SeptetCountAndLeftoverBits := by
  intro o o'
  have count := unpack_length o
  refine ⟨count, by omega, by omega, by omega, fun sameLength agree => ?_⟩
  refine septets_ext (by rw [unpack_length, unpack_length, sameLength]) fun i septet b bit => ?_
  rw [count] at septet
  rw [unpackReadsBitsInOrder o i b septet bit, unpackReadsBitsInOrder o' i b (sameLength ▸ septet) bit]
  exact agree (7 * i + b) (by omega)

/-- Settles O39: DEC7's function is the loop's text under the checks of its operand and of the capacity. -/
theorem dec7DecodesPackedText : Obligations.Dec7DecodesPackedText := by
  refine ⟨rfl, rfl, fun s strip => ⟨fun operand fits => ?_, fun operand tooLong => ?_, fun refused => ?_⟩⟩
  · rw [exec_dec7, dec7_ok (hexOperand_iff_hexPairs.mp operand) (fits_of_not_exceeds fits)]
    rfl
  · rw [exec_dec7, dec7_tooLong (hexOperand_iff_hexPairs.mp operand) (exceeds_iff_not_fits.mp tooLong), finishText_error,
      failed_eq_raise]
  · rw [exec_dec7, dec7_of_not_hexPairs _ _ (mt hexOperand_iff_hexPairs.mpr refused), finishText_error, failed_eq_raise]

/-- Settles O40: ENC7's function is the packed indices of the loop under the capacity check, or the loop's error. -/
theorem enc7EncodesText : Obligations.Enc7EncodesText := by
  refine ⟨rfl, rfl, fun s pad => ⟨fun idx encodable fits => ?_, fun idx encodable tooLong => ?_, fun unencodable => ?_⟩⟩
  · rw [exec_enc7, enc7_ok (indexList_eq_some_iff.mp encodable) (fits_of_not_exceeds fits)]
    rfl
  · rw [exec_enc7, enc7_tooLong (indexList_eq_some_iff.mp encodable) (exceeds_iff_not_fits.mp tooLong), finishHex_error,
      failed_eq_raise]
  · rw [exec_enc7, enc7_unencodable pad (indexList_eq_none_iff.mp unencodable), finishHex_error, failed_eq_raise]

/-- Settles O41: each check of the two functions that fails gives the error, and a text is no longer than its septets. -/
theorem gsm7ErrorsAndLengths : Obligations.Gsm7ErrorsAndLengths := by
  intro s p
  refine ⟨⟨_, exec_dec7 p s, ?_⟩, ⟨_, exec_enc7 p s, ?_⟩⟩
  · by_cases operand : HexPairs s.inHex
    · by_cases fits : Fits s.config.maxText (decodedText s.config p s.inHex).length
      · rw [dec7_ok operand fits]
        exact .inl ⟨rfl, decodedText_length_le operand.1 p⟩
      · rw [dec7_tooLong operand fits]
        exact .inr ⟨rfl, rfl⟩
    · rw [dec7_of_not_hexPairs _ _ operand]
      exact .inr ⟨rfl, rfl⟩
  · cases encodable : indices s.config s.inText with
    | error k =>
      obtain rfl := indices_error encodable
      rw [enc7_unencodable p encodable]
      exact .inr ⟨rfl, .inl rfl⟩
    | ok idx =>
      by_cases fits : Fits s.config.maxHex (2 * octetCount (padded s.config p idx s.inText).length)
      · rw [enc7_ok encodable fits]
        exact .inl ⟨idx, indexList_eq_some_iff.mpr encodable, rfl, packedHex_length _⟩
      · rw [enc7_tooLong encodable fits]
        exact .inr ⟨rfl, .inr rfl⟩

/-- Settles O42: ENC7 ended DONE, so OUT_HEX is the packed text, and the laws (a) to (c) say what DEC7 makes of it. -/
theorem gsm7RoundTrips : Obligations.Gsm7RoundTrips := by
  intro s e idx pad strip lawful encodable run done flags fits
  rw [indexList_eq_some_iff] at encodable
  obtain ⟨outHex, config⟩ := exec_enc7_result encodable run done
  have text : decodedText s.config strip e.outHex = roundTrip s.config pad strip s.inText idx.length := by
    rw [outHex]
    cases pad with
    | false =>
      obtain rfl : strip = false := by simpa using flags
      exact decodedText_plain lawful encodable
    | true => exact decodedText_padded lawful encodable strip
  have operand : HexPairs e.outHex := by rw [outHex, packedHex_eq_hexOf_pack]; exact hexPairs_hexOf _
  refine ⟨_, exec_dec7 strip _, ?_⟩
  simp only [config, dec7_ok operand (text ▸ fits)]
  exact ⟨rfl, text⟩

end Sys2Proof.Proofs
end

section
/-!
PROOFS. The family 42_date.md. First the calendar: days and seconds counted along it, and the search for a day's year and month.
Then the timezone octet, digits and strings by index, what DECDATE and ENCDATE answer and what each makes of the other's result,
then the statements.
-/

namespace Sys2Proof.Proofs

open Sys2Proof Sys2Proof.Machine Sys2Proof.Claim Sys2Proof.Laws

/-! ### Days along the calendar -/

theorem yearDays_bounds (y : Int) : 365 ≤ yearDays y ∧ yearDays y ≤ 366 := by
  unfold yearDays
  split <;> decide

theorem daysToYear_up (n : Nat) : daysToYear (2000 + n) = daysUp n := by
  rw [daysToYear, if_pos (by omega), add_sub_cancel_left, Int.toNat_natCast]

theorem daysToYear_down (n : Nat) : daysToYear (2000 - n) = -daysDown n := by
  cases n with
  | zero => rfl
  | succ n => rw [daysToYear, if_neg (by omega), Int.sub_sub_self, Int.toNat_natCast]

/-- From the first day of any year to the first day of the next there are the days of that year (42_date.md R162). -/
theorem daysToYear_succ (y : Int) : daysToYear (y + 1) = daysToYear y + yearDays y := by
  by_cases up : 2000 ≤ y
  · obtain ⟨n, from2000⟩ := Int.le.dest up
    have next : y + 1 = 2000 + (n + 1 : Nat) := by omega
    rw [next, ← from2000, daysToYear_up, daysToYear_up, daysUp, Nat.cast_add]
  · obtain ⟨n, to1999⟩ := Int.le.dest (show y ≤ 1999 by omega)
    have own : 1999 - (n : Int) = y := by omega
    have start : 2000 - (n + 1 : Nat) = y := by omega
    have next : y + 1 = 2000 - n := by omega
    have first := daysToYear_down (n + 1)
    rw [start, daysDown, own] at first
    rw [next, first, daysToYear_down]
    omega

theorem daysToYear_monotone : Monotone daysToYear :=
  monotone_int_of_le_succ fun y => by rw [daysToYear_succ]; omega

theorem daysToMonth_monotone (y : Int) : Monotone (daysToMonth y) :=
  monotone_nat_of_le_succ fun _ => Nat.le_add_right _ _

theorem daysToMonth_twelve (y : Int) : daysToMonth y 12 = yearDays y := by
  cases leapYear : leap y <;> simp [daysToMonth, dim, yearDays, leapYear]

/-! ### A calendar time's day and second of the day -/

/-- Days from 2000-01-01 to a calendar time's day (42_date.md R162). -/
def dayOf (t : CivilTime) : Int := daysToYear t.year + daysToMonth t.year (t.month - 1) + ((t.day : Int) - 1)

/-- Seconds of a calendar time since midnight. -/
def secondOfDay (t : CivilTime) : Nat := 3600 * t.hour + 60 * t.minute + t.second

theorem secs_eq (t : CivilTime) : secs t = 86400 * dayOf t + secondOfDay t := by
  simp only [secs, dayOf, secondOfDay]
  omega

section
variable {t : CivilTime} (valid : Valid t)
include valid

theorem secondOfDay_lt : secondOfDay t < 86400 := by
  obtain ⟨-, -, hour, minute, second⟩ := valid
  rw [secondOfDay]
  omega

/-- The day of a month lies between the first days of the month and of the next. -/
theorem dayOf_month_bounds :
    daysToMonth t.year (t.month - 1) ≤ dayOf t - daysToYear t.year ∧
      dayOf t - daysToYear t.year < daysToMonth t.year (t.month - 1 + 1) := by
  obtain ⟨⟨m1, m2⟩, ⟨d1, d2⟩, -⟩ := valid
  rw [← dim_eq_daysIn m1 m2, ← Nat.sub_add_cancel m1] at d2
  rw [dayOf, daysToMonth]
  omega

theorem dayOf_year_bounds : daysToYear t.year ≤ dayOf t ∧ dayOf t < daysToYear (t.year + 1) := by
  obtain ⟨lo, hi⟩ := dayOf_month_bounds valid
  have inYear : daysToMonth t.year (t.month - 1 + 1) ≤ yearDays t.year := by
    rw [← daysToMonth_twelve]
    exact daysToMonth_monotone _ (by omega)
  rw [daysToYear_succ]
  omega

end

/-- A day of the calendar has one date: year and month by the monotony of their first days. -/
theorem dayOf_injective {t u : CivilTime} (validT : Valid t) (validU : Valid u) (same : dayOf t = dayOf u) :
    t.year = u.year ∧ t.month = u.month ∧ t.day = u.day := by
  have ⟨yearT, yearT'⟩ := dayOf_year_bounds validT
  have ⟨yearU, yearU'⟩ := dayOf_year_bounds validU
  have ⟨monthT, monthT'⟩ := dayOf_month_bounds validT
  have ⟨monthU, monthU'⟩ := dayOf_month_bounds validU
  have year : t.year = u.year := by
    have := daysToYear_monotone.reflect_lt (yearT.trans_lt (same ▸ yearU'))
    have := daysToYear_monotone.reflect_lt (yearU.trans_lt (same ▸ yearT'))
    omega
  rw [same, year] at monthT monthT'
  have month : t.month = u.month := by
    have := (daysToMonth_monotone u.year).reflect_lt (Int.ofNat_lt.mp (monthT.trans_lt monthU'))
    have := (daysToMonth_monotone u.year).reflect_lt (Int.ofNat_lt.mp (monthU.trans_lt monthT'))
    obtain ⟨⟨fromT, -⟩, -⟩ := validT
    obtain ⟨⟨fromU, -⟩, -⟩ := validU
    omega
  rw [dayOf, dayOf, year, month] at same
  exact ⟨year, month, by omega⟩

/-- A second count belongs to one valid calendar time at most. -/
theorem secs_injective {t u : CivilTime} (validT : Valid t) (validU : Valid u) (same : secs t = secs u) : t = u := by
  have secondT := secondOfDay_lt validT
  have secondU := secondOfDay_lt validU
  rw [secs_eq, secs_eq] at same
  obtain ⟨year, month, day⟩ := dayOf_injective validT validU (by omega)
  have clock : secondOfDay t = secondOfDay u := by omega
  obtain ⟨hour, minute, second⟩ : t.hour = u.hour ∧ t.minute = u.minute ∧ t.second = u.second := by
    obtain ⟨-, -, -, minuteT, _⟩ := validT
    obtain ⟨-, -, -, minuteU, _⟩ := validU
    rw [secondOfDay, secondOfDay] at clock
    omega
  cases t
  cases u
  simp_all only

/-! ### The search for a day's year and month -/

/-- A year and a day of it, from 0, are those of day d counted from 2000-01-01. -/
def IsYearOfDay (d : Int) (p : Int × Nat) : Prop := p.2 < yearDays p.1 ∧ daysToYear p.1 + p.2 = d

/-- A year has a day at least, so the fuel lasts. -/
theorem isYearOfDay_yearUp {fuel : Nat} {y : Int} {n : Nat} (enough : n < fuel) :
    IsYearOfDay (daysToYear y + n) (yearUp fuel y n) := by
  induction fuel generalizing y n with
  | zero => omega
  | succ fuel ih =>
    have ⟨someDay, _⟩ := yearDays_bounds y
    rw [yearUp]
    split
    case isTrue here => exact ⟨here, rfl⟩
    case isFalse later =>
      have passed : daysToYear y + n = daysToYear (y + 1) + (n - yearDays y : Nat) := by
        rw [daysToYear_succ]
        omega
      rw [passed]
      exact ih (by omega)

theorem isYearOfDay_yearDown {fuel : Nat} {y : Int} {n : Nat} (before : 1 ≤ n) (enough : n ≤ fuel) :
    IsYearOfDay (daysToYear y - n) (yearDown fuel y n) := by
  induction fuel generalizing y n with
  | zero => omega
  | succ fuel ih =>
    have ⟨someDay, _⟩ := yearDays_bounds (y - 1)
    have previous := daysToYear_succ (y - 1)
    rw [Int.sub_add_cancel] at previous
    rw [yearDown]
    split
    case isTrue here =>
      simp only [IsYearOfDay]
      omega
    case isFalse earlier =>
      have passed : daysToYear y - n = daysToYear (y - 1) - (n - yearDays (y - 1) : Nat) := by omega
      rw [passed]
      exact ih (by omega) (by omega)

theorem isYearOfDay_yearOfDay (d : Int) : IsYearOfDay d (yearOfDay d) := by
  have epoch : daysToYear 2000 = 0 := rfl
  rw [yearOfDay]
  split
  case isTrue after =>
    have up := isYearOfDay_yearUp (y := 2000) (Nat.lt_succ_self d.toNat)
    rwa [epoch, Int.zero_add, Int.toNat_of_nonneg after] at up
  case isFalse before =>
    have down := isYearOfDay_yearDown (y := 2000) (show 1 ≤ (-d).toNat by omega) (Nat.le_succ _)
    rwa [epoch, Int.toNat_of_nonneg (by omega), Int.zero_sub, Int.neg_neg] at down

/-- A month and a day of it, both from 1, are those of day n of the year, from 0. -/
def IsMonthOfDay (y : Int) (n : Nat) (p : Nat × Nat) : Prop :=
  (1 ≤ p.1 ∧ p.1 ≤ 12) ∧ (1 ≤ p.2 ∧ p.2 ≤ dim y p.1) ∧ daysToMonth y (p.1 - 1) + p.2 = n + 1

/-- The search that has passed `k` months, from day `n` on, finds the month before its fuel ends at December. -/
theorem isMonthOfDay_monthOfDay {y : Int} {fuel k n : Nat} (december : k + fuel = 11)
    (inYear : daysToMonth y k + n < yearDays y) : IsMonthOfDay y (daysToMonth y k + n) (monthOfDay y fuel (k + 1) n) := by
  induction fuel generalizing k n with
  | zero =>
    obtain rfl : k = 11 := december
    rw [← daysToMonth_twelve, daysToMonth] at inYear
    exact ⟨⟨Nat.le_add_left _ _, Nat.le_refl _⟩, ⟨Nat.le_add_left _ _, Nat.lt_of_add_lt_add_left inYear⟩, rfl⟩
  | succ fuel ih =>
    rw [monthOfDay]
    split
    case isTrue here => exact ⟨⟨Nat.le_add_left _ _, by simp only; omega⟩, ⟨Nat.le_add_left _ _, here⟩, rfl⟩
    case isFalse later =>
      have passed : daysToMonth y k + n = daysToMonth y (k + 1) + (n - dim y (k + 1)) := by
        rw [daysToMonth]
        omega
      rw [passed] at inYear ⊢
      exact ih (by omega) inYear

/-- `civil` gives a valid calendar time of the second (42_date.md R162). -/
theorem civil_spec (n : Int) : Valid (civil n) ∧ secs (civil n) = n := by
  obtain ⟨inYear, year⟩ := isYearOfDay_yearOfDay (n / 86400)
  obtain ⟨⟨m1, m2⟩, ⟨d1, d2⟩, month⟩ :=
    isMonthOfDay_monthOfDay (k := 0) (fuel := 11) rfl (show daysToMonth _ 0 + (yearOfDay (n / 86400)).2 < _ by
      rwa [daysToMonth, Nat.zero_add])
  rw [dim_eq_daysIn m1 m2] at d2
  rw [daysToMonth, Nat.zero_add] at month
  refine ⟨⟨⟨m1, m2⟩, ⟨d1, d2⟩, ?_⟩, ?_⟩
  · simp only [civil]
    omega
  · simp only [secs, civil]
    omega

/-- A calendar time is found again from its seconds: no other valid one has them. -/
theorem civil_secs {t : CivilTime} (valid : Valid t) : civil (secs t) = t :=
  have ⟨validCivil, sameSecs⟩ := civil_spec (secs t)
  secs_injective validCivil valid sameSecs

/-! ### The next second -/

/-- `secs` counts the seconds of the calendar, across the ends of the minute, the hour, the day, the month and the year. -/
theorem secs_nextSecond {t : CivilTime} (valid : Valid t) : secs (nextSecond t) = secs t + 1 := by
  obtain ⟨⟨m1, m2⟩, ⟨d1, d2⟩, hour, minute, second⟩ := valid
  rw [← dim_eq_daysIn m1 m2] at d2
  rw [nextSecond, ← dim_eq_daysIn m1 m2]
  split_ifs with sameMinute sameHour sameDay sameMonth sameYear
  iterate 4 simp only [secs]; omega
  · obtain ⟨k, month⟩ := Nat.exists_eq_add_of_le' m1
    simp only [secs, month, Nat.add_sub_cancel, daysToMonth] at d2 sameMonth ⊢
    omega
  · have december : t.month = 12 := by omega
    have lastDay : t.day = 31 := by
      have length : dim t.year 12 = 31 := rfl
      rw [december, length] at d2 sameMonth
      omega
    have yearEnd : daysToMonth t.year 11 + 31 = yearDays t.year := daysToMonth_twelve t.year
    have newYear : daysToMonth (t.year + 1) 0 = 0 := rfl
    simp only [secs, december, lastDay, daysToYear_succ, Nat.sub_self, Nat.reduceSub, newYear]
    omega

/-! ### The timezone octet -/

theorem tzDecode_eq_tzOffset (o : Octet) : tzDecode o = tzOffset o.toNat := by
  revert o
  decide

theorem tzEncode_toNat {off : Int} (lo : -127 ≤ off) (hi : off ≤ 127) :
    ((tzEncode off).toNat : Int) = if 0 ≤ off then off else 128 - off := by
  rw [tzEncode]
  split_ifs with sign
  · rw [BitVec.toNat_ofNat]
    omega
  · rw [BitVec.toNat_add, BitVec.toNat_ofNat]
    simp only [BitVec.reduceToNat]
    omega

/-- The octet of an offset, in numbers, carries the offset (42_date.md R163, R164). -/
theorem tzOffset_tzEncode {off : Int} (lo : -127 ≤ off) (hi : off ≤ 127) : tzOffset (tzEncode off).toNat = off := by
  have octet := tzEncode_toNat lo hi
  rw [tzOffset]
  split_ifs at octet ⊢ <;> omega

/-! ### Digits -/

theorem isDecimal_iff {c : Char} : isDecimal c = true ↔ IsDecimal c := by
  have decimalDigit : isHex c = true → (hexVal c < 10 ↔ IsDecimal c) :=
    forall_isHex (p := fun c => hexVal c < 10 ↔ IsDecimal c) (by simp [hexDigits, IsDecimal, hexVal, List.idxOf_cons])
  rw [isDecimal, Bool.and_eq_true, decide_eq_true_eq]
  exact ⟨fun ⟨hex, small⟩ => (decimalDigit hex).mp small,
    fun decimal => have hex := isHex_iff_isDigit.mpr (.inl decimal); ⟨hex, (decimalDigit hex).mpr decimal⟩⟩

theorem val_lt {c : Char} (digit : IsDigit c) : val c < 16 := by
  have hex := isHex_iff_isDigit.mpr digit
  exact val_eq_hexVal hex ▸ hexVal_lt hex

theorem val_lt_ten {c : Char} (decimal : IsDecimal c) : val c < 10 := by
  rw [val, if_pos decimal.2]
  omega

theorem digitOf_val {c : Char} (digit : IsDigit c) : digitOf (val c) = c :=
  forall_isHex (p := fun c => digitOf (val c) = c) (by simp [hexDigits, digitOf, val]) (isHex_iff_isDigit.mpr digit)

theorem val_digitOf {v : Nat} (digit : v < 16) : val (digitOf v) = v := by
  revert v
  decide

theorem isDecimal_digitOf {v : Nat} (digit : v < 10) : IsDecimal (digitOf v) := by
  revert v
  decide

theorem dec2_eq {v : Nat} (small : v < 100) : dec2 v = [digitOf (v / 10), digitOf (v % 10)] := by
  simp only [dec2, hexChar_eq_digitOf, BitVec.toNat_ofNat]
  congr 2 <;> congr 1 <;> omega

/-- A BCD field's answer in a sequence of checks (42_date.md R160). -/
theorem bcd2_bind {α : Type} (a b : Char) (rest : Nat → Except ErrKind α) :
    (bcd2 a b >>= rest) =
      if IsDecimal a ∧ IsDecimal b then rest (10 * val a + val b) else .error .malformed := by
  simp only [bcd2, Bool.and_eq_true, isDecimal_iff]
  split_ifs with decimal
  · obtain ⟨aDecimal, bDecimal⟩ := decimal
    rw [val_eq_hexVal (isHex_iff_isDigit.mpr (.inl aDecimal)), val_eq_hexVal (isHex_iff_isDigit.mpr (.inl bDecimal))]
    rfl
  · rfl

/-! ### Hex strings by index -/

theorem isDigit_at' {h : HexString} (digits : AllDigits h) (k : Nat) : IsDigit (at' h k) := by
  by_cases inH : k < h.length
  · rw [at', List.getD_eq_getElem _ _ inH]
    simpa using List.all_eq_true.mp digits _ (List.getElem_mem inH)
  · rw [at', List.getD_eq_default _ _ (not_lt.mp inH)]
    decide

theorem map_at'_range (h : HexString) : (List.range h.length).map (at' h) = h := by
  refine List.ext_getElem (by simp) fun k _ inH => ?_
  rw [List.getElem_map, List.getElem_range, at', List.getD_eq_getElem _ _ inH]

theorem take_drop_twelve {h : HexString} (length : h.length = 14) :
    h.take 12 = (List.range 12).map (at' h) ∧ h.drop 12 = [at' h 12, at' h 13] := by
  have chars := map_at'_range h
  rw [length] at chars
  exact ⟨congrArg (List.take 12) chars.symm, congrArg (List.drop 12) chars.symm⟩

theorem raise_not_done (s : State) (k : ErrKind) : (s.raise k).status ≠ statusDone := by
  simp [statusError, statusDone]

/-! ### DECDATE -/

/-- The calendar time in UTC of a date string (42_date.md R165). -/
def utcTime (h : HexString) : CivilTime := civil (secs (localTime h) - 900 * tzOffset (tzOctet h))

theorem utcTime_spec (h : HexString) :
    Valid (utcTime h) ∧ secs (utcTime h) = secs (localTime h) - 900 * tzOffset (tzOctet h) := civil_spec _

theorem exec_decdate (s : State) : exec .decdate s = .next (s.finishRec (decdate s.inHex)) := rfl

/-- The twelve digits of the six fields, pair by pair in the order DECDATE checks them. -/
theorem twelve_decimal_iff {h : HexString} : (∀ k, k < 12 → IsDecimal (at' h k)) ↔
    (IsDecimal (at' h 1) ∧ IsDecimal (at' h 0)) ∧ (IsDecimal (at' h 3) ∧ IsDecimal (at' h 2)) ∧
    (IsDecimal (at' h 5) ∧ IsDecimal (at' h 4)) ∧ (IsDecimal (at' h 7) ∧ IsDecimal (at' h 6)) ∧
    (IsDecimal (at' h 9) ∧ IsDecimal (at' h 8)) ∧ (IsDecimal (at' h 11) ∧ IsDecimal (at' h 10)) := by
  constructor
  · intro all
    refine ⟨⟨?_, ?_⟩, ⟨?_, ?_⟩, ⟨?_, ?_⟩, ⟨?_, ?_⟩, ⟨?_, ?_⟩, ?_, ?_⟩ <;> exact all _ (by decide)
  · rintro ⟨⟨_, _⟩, ⟨_, _⟩, ⟨_, _⟩, ⟨_, _⟩, ⟨_, _⟩, _, _⟩ k twelve
    interval_cases k <;> assumption

/-- DECDATE's function on 14 hex digits, its fields by index (42_date.md R165). -/
theorem decdate_of_length {h : HexString} (p : HexPairs h) (length : h.length = 14) :
    decdate h = if DateDigits h then
      if Valid (localTime h) then Except.ok (dateRecord (utcTime h))
      else Except.error ErrKind.validation
    else Except.error ErrKind.malformed := by
  have fields : swapNibbles h = [at' h 1, at' h 0, at' h 3, at' h 2, at' h 5, at' h 4, at' h 7, at' h 6, at' h 9,
      at' h 8, at' h 11, at' h 10, at' h 13, at' h 12] := by
    rw [← swapped_eq_swapNibbles, swapped, length]
    rfl
  have offset : tzDecode (octetOf (at' h 13) (at' h 12)) = tzOffset (tzOctet h) := by
    have digit (k : Nat) := isHex_iff_isDigit.mpr (isDigit_at' (hexOperand_iff_hexPairs.mpr p).1 k)
    rw [tzDecode_eq_tzOffset, octetOf_toNat (digit 13) (digit 12), tzOctet]
  simp only [decdate, checkHex_ok_iff.mpr p, fields, bcd2_bind, offset, ← ite_and, ← twelve_decimal_iff]
  by_cases decimal : ∀ k, k < 12 → IsDecimal (at' h k)
  · rw [if_pos decimal, if_pos (show DateDigits h from ⟨hexOperand_iff_hexPairs.mpr p, length, decimal⟩)]
    by_cases valid : Valid (localTime h)
    · rw [if_pos valid]
      exact if_neg (show ¬ validLocal (localTime h) = false by simp [validLocal_iff_valid.mpr valid])
    · rw [if_neg valid]
      exact if_pos (show validLocal (localTime h) = false by simpa [← validLocal_iff_valid] using valid)
  · rw [if_neg decimal, if_neg (show ¬ DateDigits h from fun ⟨_, _, all⟩ => decimal all)]
    rfl

/-- DECDATE's function: the form of the string, then the calendar, then the move to UTC (42_date.md R165). -/
theorem decdate_eq (h : HexString) : decdate h =
    if DateDigits h then
      if Valid (localTime h) then Except.ok (dateRecord (utcTime h))
      else Except.error ErrKind.validation
    else Except.error ErrKind.malformed := by
  obtain ⟨accepted, p⟩ | ⟨refused, notPairs⟩ := checkHex_cases h
  · by_cases length : h.length = 14
    · exact decdate_of_length p length
    · rw [if_neg (fun ⟨_, fourteen, _⟩ => length fourteen)]
      simp only [decdate, accepted]
      have swappedLength := swapNibbles_length h
      rw [p.two_mul_half] at swappedLength
      simp only [bind, Except.bind]
      split
      next fourteen =>
        rw [fourteen] at swappedLength
        exact absurd swappedLength.symm length
      next => rfl
  · rw [if_neg (fun ⟨operand, _⟩ => notPairs (hexOperand_iff_hexPairs.mp operand)), decdate, refused]
    rfl

theorem dateField_lt {h : HexString} (decimal : ∀ k, k < 12 → IsDecimal (at' h k)) {j : Nat} (field : j < 6) :
    dateField h j < 100 := by
  have := val_lt_ten (decimal (2 * j) (by omega))
  have := val_lt_ten (decimal (2 * j + 1) (by omega))
  rw [dateField]
  omega

theorem tzOctet_lt {h : HexString} (digits : AllDigits h) : tzOctet h < 256 := by
  have := val_lt (isDigit_at' digits 12)
  have := val_lt (isDigit_at' digits 13)
  rw [tzOctet]
  omega

theorem tzOffset_bounds {o : Nat} (octet : o < 256) : -127 ≤ tzOffset o ∧ tzOffset o ≤ 127 := by
  rw [tzOffset]
  split <;> omega

theorem localTime_year_bounds {h : HexString} (form : DateDigits h) :
    2000 ≤ (localTime h).year ∧ (localTime h).year ≤ 2099 := by
  obtain ⟨-, -, decimal⟩ := form
  have := dateField_lt decimal (show 0 < 6 by decide)
  simp only [localTime]
  omega

/-- A time less than 365 days after another one lies in the other's year or the next, or earlier. -/
theorem year_le_of_secs_lt {t u : CivilTime} (validT : Valid t) (validU : Valid u)
    (near : secs t < secs u + 365 * 86400) : t.year ≤ u.year + 1 := by
  have ⟨first, _⟩ := dayOf_year_bounds validT
  have ⟨_, last⟩ := dayOf_year_bounds validU
  have next := daysToYear_succ (u.year + 1)
  have ⟨long, _⟩ := yearDays_bounds (u.year + 1)
  have clock := secondOfDay_lt validU
  rw [secs_eq, secs_eq] at near
  have := daysToYear_monotone.reflect_lt (show daysToYear t.year < daysToYear (u.year + 1 + 1) by omega)
  omega

theorem daysIn_le (y : Int) (m : Nat) : daysIn y m ≤ 31 := by
  unfold daysIn
  split_ifs <;> decide

/-- A record's fields are wide enough for a calendar time (10_state.md R23). -/
theorem timeOf_dateRecord {u : CivilTime} (valid : Valid u) (lo : 0 ≤ u.year) (hi : u.year < 65536) :
    timeOf (dateRecord u) = u := by
  obtain ⟨⟨m1, m2⟩, ⟨d1, d2⟩, hour, minute, second⟩ := valid
  have := daysIn_le u.year u.month
  simp only [timeOf, dateRecord, BitVec.toNat_ofInt, BitVec.toNat_ofNat]
  obtain ⟨y, m, d, h, mi, s⟩ := u
  simp only [CivilTime.mk.injEq] at *
  omega

/-- The year DECDATE's move to UTC ends in differs from the local year by one at most. -/
theorem utcTime_year_bounds {h : HexString} (form : DateDigits h) (valid : Valid (localTime h)) :
    1999 ≤ (utcTime h).year ∧ (utcTime h).year ≤ 2100 := by
  obtain ⟨y1, y2⟩ := localTime_year_bounds form
  obtain ⟨⟨digits, -⟩, -⟩ := form
  obtain ⟨o1, o2⟩ := tzOffset_bounds (tzOctet_lt digits)
  obtain ⟨validUtc, utc⟩ := utcTime_spec h
  have := year_le_of_secs_lt valid validUtc (by omega)
  have := year_le_of_secs_lt validUtc valid (by omega)
  omega

theorem exec_decdate_result {s d : State} (run : exec .decdate s = .next d) (done : d.status = statusDone) :
    DateDigits s.inHex ∧ Valid (localTime s.inHex) ∧ d.config = s.config ∧ d.outRec = dateRecord (utcTime s.inHex) := by
  rw [exec_decdate, decdate_eq] at run
  split_ifs at run with form valid <;> cases run
  · exact ⟨form, valid, rfl, rfl⟩
  all_goals exact absurd done (raise_not_done s _)

/-! ### ENCDATE -/

theorem exec_encdate (s : State) : exec .encdate s = .next (s.finishHex (encdate s.config s.inRec)) := rfl

/-- The fourteen digits of a record on the wire (42_date.md R170); `encdate_ok` says that ENCDATE answers them. -/
def encodedDate (r : Rec) : HexString :=
  wirePair (r.year.toNat - 2000) ++ wirePair r.month.toNat ++ wirePair r.day.toNat ++ wirePair r.hour.toNat ++
    wirePair r.minute.toNat ++ wirePair r.second.toNat ++ wireOffset (offsetOf r)

theorem hexOctet_eq (o : Octet) : hexOctet o = [digitOf (o.toNat / 16), digitOf (o.toNat % 16)] := by
  have digits := hexOctet_eq_digits o.toNat
  rwa [BitVec.ofNat_toNat, BitVec.setWidth_eq, Nat.mod_eq_of_lt o.isLt] at digits

theorem offsetOf_bounds {r : Rec} (accepted : DateAccepted r) : -127 ≤ offsetOf r ∧ offsetOf r ≤ 127 := by
  obtain ⟨-, -, notMin⟩ := accepted
  have lo : -128 ≤ r.tzQuarters.toInt := BitVec.le_toInt _
  have hi : r.tzQuarters.toInt < 128 := BitVec.toInt_lt
  rw [offsetOf]
  split_ifs with present
  · have notMin : r.tzQuarters.toInt ≠ -128 := fun min => notMin ⟨present, min⟩
    omega
  · decide

/-- A two-digit field on the wire is the swap of its decimal digits. -/
theorem swapNibbles_dec2 {v : Nat} (small : v < 100) (rest : HexString) :
    swapNibbles (dec2 v ++ rest) = wirePair v ++ swapNibbles rest := by
  rw [dec2_eq small]
  rfl

theorem swapNibbles_hexOctet_tzEncode {off : Int} (lo : -127 ≤ off) (hi : off ≤ 127) :
    swapNibbles (hexOctet (tzEncode off)) = wireOffset off := by
  rw [hexOctet_eq, wireOffset, ← tzEncode_toNat lo hi, Int.toNat_natCast]
  rfl

/-- The six fields of an accepted record have two decimal digits each. -/
theorem fields_lt {r : Rec} (accepted : DateAccepted r) :
    r.year.toNat - 2000 < 100 ∧ r.month.toNat < 100 ∧ r.day.toNat < 100 ∧ r.hour.toNat < 100 ∧
    r.minute.toNat < 100 ∧ r.second.toNat < 100 := by
  obtain ⟨⟨lo, hi⟩, ⟨⟨m1, m2⟩, ⟨d1, d2⟩, hour, minute, second⟩, -⟩ := accepted
  simp only [timeOf] at m1 m2 d1 d2 hour minute second
  have := daysIn_le r.year.toNat r.month.toNat
  omega

/-- The swap of 42_date.md R170's fourteen digits is the string of the wire's pairs. -/
theorem swapNibbles_dateDigits {r : Rec} (accepted : DateAccepted r) :
    swapNibbles (dec2 (r.year.toNat - 2000) ++ dec2 r.month.toNat ++ dec2 r.day.toNat ++ dec2 r.hour.toNat ++
      dec2 r.minute.toNat ++ dec2 r.second.toNat ++ hexOctet (tzEncode (recordOffset r))) = encodedDate r := by
  obtain ⟨year, month, day, hour, minute, second⟩ := fields_lt accepted
  obtain ⟨lo, hi⟩ := offsetOf_bounds accepted
  have sameOffset : recordOffset r = offsetOf r := rfl
  simp only [List.append_assoc, swapNibbles_dec2, year, month, day, hour, minute, second, sameOffset,
    swapNibbles_hexOctet_tzEncode lo hi, encodedDate]

theorem encdate_ok {c : Config} {r : Rec} (accepted : DateAccepted r) (fits : Fits c.maxHex 14) :
    encdate c r = .ok (encodedDate r) := by
  have digits := swapNibbles_dateDigits accepted
  obtain ⟨⟨lo, hi⟩, valid, offset⟩ := accepted
  have inRange : ¬ (r.year.toNat < 2000 ∨ 2099 < r.year.toNat) := by omega
  have validTime : validLocal (recordTime r) = true := validLocal_iff_valid.mpr valid
  simp only [encdate, if_neg inRange, validTime, if_neg offset, checkCapacity_ok fits, digits]
  rfl

theorem encdate_refused (c : Config) {r : Rec} (refused : ¬ DateAccepted r) : encdate c r = .error .validation := by
  by_cases inRange : r.year.toNat < 2000 ∨ 2099 < r.year.toNat
  · rw [encdate, if_pos inRange]
    rfl
  by_cases valid : validLocal (recordTime r) = false
  · rw [encdate, if_neg inRange, if_pos valid]
    rfl
  by_cases offset : r.tzPresent = 1 ∧ r.tzQuarters.toInt = -128
  · rw [encdate, if_neg inRange, if_neg valid, if_pos offset]
    rfl
  · exact absurd ⟨by omega, validLocal_iff_valid.mp (Bool.eq_true_of_not_eq_false valid), offset⟩ refused

theorem exec_encdate_result {s e : State} (run : exec .encdate s = .next e) (done : e.status = statusDone) :
    DateAccepted s.inRec ∧ e.outHex = encodedDate s.inRec := by
  rw [exec_encdate] at run
  by_cases accepted : DateAccepted s.inRec
  · by_cases fits : Fits s.config.maxHex 14
    · rw [encdate_ok accepted fits] at run
      cases run
      exact ⟨accepted, rfl⟩
    · rw [encdate_overCapacity accepted fits] at run
      cases run
      exact absurd done (raise_not_done s _)
  · rw [encdate_refused _ accepted] at run
    cases run
    exact absurd done (raise_not_done s _)

/-! ### What DECDATE reads of an encoded date -/

theorem field_wirePair {v : Nat} (small : v < 100) : 10 * val (digitOf (v / 10)) + val (digitOf (v % 10)) = v := by
  rw [val_digitOf (by omega), val_digitOf (by omega)]
  omega

section
variable {r : Rec} (accepted : DateAccepted r)
include accepted

theorem encodedDate_decimal {k : Nat} (date : k < 12) : IsDecimal (at' (encodedDate r) k) := by
  obtain ⟨year, month, day, hour, minute, second⟩ := fields_lt accepted
  rw [encodedDate]
  generalize r.year.toNat - 2000 = y at year
  interval_cases k <;> exact isDecimal_digitOf (by omega)

theorem hexPairs_encodedDate : HexPairs (encodedDate r) := by
  have ok := encdate_ok (c := defaultConfig) accepted nofun
  obtain ⟨v, e, pairs, -⟩ | e | e := encdate_cases defaultConfig r <;> cases ok.symm.trans e
  exact pairs

theorem dateDigits_encodedDate : DateDigits (encodedDate r) :=
  ⟨hexOperand_iff_hexPairs.mpr (hexPairs_encodedDate accepted), rfl, fun _ => encodedDate_decimal accepted⟩

theorem localTime_encodedDate : localTime (encodedDate r) = timeOf r := by
  obtain ⟨year, month, day, hour, minute, second⟩ := fields_lt accepted
  obtain ⟨⟨lo, hi⟩, -⟩ := accepted
  have yearField : dateField (encodedDate r) 0 = r.year.toNat - 2000 := by
    rw [encodedDate]
    generalize r.year.toNat - 2000 = y at year ⊢
    exact field_wirePair year
  rw [localTime, timeOf, CivilTime.mk.injEq, yearField]
  exact ⟨by omega, field_wirePair month, field_wirePair day, field_wirePair hour, field_wirePair minute,
    field_wirePair second⟩

theorem tzOffset_encodedDate : tzOffset (tzOctet (encodedDate r)) = offsetOf r := by
  obtain ⟨lo, hi⟩ := offsetOf_bounds accepted
  have octet : tzOctet (encodedDate r) = (tzEncode (offsetOf r)).toNat := by
    have small := (tzEncode (offsetOf r)).isLt
    rw [encodedDate, wireOffset, ← tzEncode_toNat lo hi, Int.toNat_natCast]
    generalize (tzEncode (offsetOf r)).toNat = o at small ⊢
    generalize r.year.toNat - 2000 = y
    calc 16 * val (digitOf (o / 16)) + val (digitOf (o % 16))
      _ = 16 * (o / 16) + o % 16 := by rw [val_digitOf (by omega), val_digitOf (by omega)]
      _ = o := Nat.div_add_mod o 16
  rw [octet, tzOffset_tzEncode lo hi]

theorem utcTime_encodedDate : utcTime (encodedDate r) = civil (secs (timeOf r) - 900 * offsetOf r) := by
  rw [utcTime, localTime_encodedDate accepted, tzOffset_encodedDate accepted]

end

/-! ### What ENCDATE writes of a decoded date -/

theorem wirePair_dateField {h : HexString} {j : Nat} (decimal : ∀ k, k < 12 → IsDecimal (at' h k)) (field : j < 6) :
    wirePair (dateField h j) = [at' h (2 * j), at' h (2 * j + 1)] := by
  have units := decimal (2 * j) (by omega)
  have tens := decimal (2 * j + 1) (by omega)
  have small := val_lt_ten units
  have mod : dateField h j % 10 = val (at' h (2 * j)) := by rw [dateField]; omega
  have div : dateField h j / 10 = val (at' h (2 * j + 1)) := by rw [dateField]; omega
  rw [wirePair, mod, div, digitOf_val (.inl units), digitOf_val (.inl tens)]

/-- A record with the local fields of a date string is written with the string's first twelve characters. -/
theorem encodedDate_of_localTime {h : HexString} {r : Rec} (form : DateDigits h) (time : timeOf r = localTime h) :
    encodedDate r = h.take 12 ++ wireOffset (offsetOf r) := by
  obtain ⟨-, length, decimal⟩ := form
  obtain ⟨date, -⟩ := take_drop_twelve length
  rw [timeOf, localTime, CivilTime.mk.injEq] at time
  obtain ⟨year, month, day, hour, minute, second⟩ := time
  have yearField : r.year.toNat - 2000 = dateField h 0 := by omega
  rw [encodedDate, yearField, month, day, hour, minute, second, date]
  simp only [wirePair_dateField decimal, Nat.reduceLT]
  rfl

theorem timeOf_dateRecord_localTime {h : HexString} (form : DateDigits h) (valid : Valid (localTime h)) :
    timeOf (dateRecord (localTime h)) = localTime h := by
  obtain ⟨lo, hi⟩ := localTime_year_bounds form
  exact timeOf_dateRecord valid (by omega) (by omega)

theorem dateAccepted_dateRecord {h : HexString} (form : DateDigits h) (valid : Valid (localTime h)) :
    DateAccepted (dateRecord (localTime h)) := by
  obtain ⟨lo, hi⟩ := localTime_year_bounds form
  have time := timeOf_dateRecord_localTime form valid
  have year : ((dateRecord (localTime h)).year.toNat : Int) = (localTime h).year := congrArg CivilTime.year time
  have notMin : (0 : BitVec 8).toInt ≠ -128 := by decide
  exact ⟨by omega, time.symm ▸ valid, fun ⟨_, min⟩ => notMin min⟩

theorem wireOffset_dateRecord (u : CivilTime) : wireOffset (offsetOf (dateRecord u)) = ['0', '0'] := by
  have zero : offsetOf (dateRecord u) = 0 := rfl
  rw [zero]
  decide

/-- The two characters of a zero timezone octet. -/
theorem drop_twelve_of_tzOctet_zero {h : HexString} (form : DateDigits h) (zero : tzOctet h = 0) :
    h.drop 12 = ['0', '0'] := by
  obtain ⟨⟨digits, -⟩, length, -⟩ := form
  obtain ⟨-, last⟩ := take_drop_twelve length
  have zeroDigit (k : Nat) (e : val (at' h k) = 0) : at' h k = '0' := by
    rw [← digitOf_val (isDigit_at' digits k), e]
    rfl
  rw [tzOctet] at zero
  rw [last, zeroDigit 12 (by omega), zeroDigit 13 (by omega)]

/-! ### The statements -/

/-- Settles O44: a second either stays in its minute or passes the end of one of the calendar's periods. -/
theorem secondsFollowTheCalendar : Obligations.SecondsFollowTheCalendar := ⟨rfl, fun _ => secs_nextSecond⟩

/-- Settles O45: the search finds a valid time of the second, and `secs` is injective on valid times. -/
theorem civilInvertsSeconds : Obligations.CivilInvertsSeconds := ⟨fun _ => civil_secs, civil_spec⟩

/-- Settles O47: by DECDATE's checks in order; the moved time is `civil`'s, less than a year from the local one. -/
theorem decdateDecodesToUtc : Obligations.DecdateDecodesToUtc := by
  refine ⟨rfl, fun s => ⟨fun malformed => ?_, fun form invalid => ?_, fun form valid => ?_⟩⟩
  · rw [exec_decdate, decdate_eq, if_neg malformed, finishRec_error, failed_eq_raise]
  · rw [exec_decdate, decdate_eq, if_pos form, if_neg invalid, finishRec_error, failed_eq_raise]
  · obtain ⟨validUtc, utc⟩ := utcTime_spec s.inHex
    obtain ⟨lo, hi⟩ := utcTime_year_bounds form valid
    refine ⟨_, validUtc, utc, lo, hi, ?_⟩
    rw [exec_decdate, decdate_eq, if_pos form, if_pos valid]
    rfl

/-- Settles O48: an accepted record passes every check, and its fourteen digits are swapped pair by pair. -/
theorem encdateWritesLocalFields : Obligations.EncdateWritesLocalFields := by
  refine ⟨rfl, fun s => ⟨fun accepted fits => ?_, fun refused => ?_⟩⟩
  · rw [exec_encdate, encdate_ok accepted (fits_of_not_exceeds fits)]
    rfl
  · rw [exec_encdate, encdate_refused _ refused, finishHex_error, failed_eq_raise]

/-- Settles O49: the encoded string has the record's own local time and offset, and `civil` inverts `secs` where the offset is
0. -/
theorem encodedDateDecodesToSameInstant : Obligations.EncodedDateDecodesToSameInstant := by
  intro s e run done
  obtain ⟨accepted, outHex⟩ := exec_encdate_result run done
  have ⟨_, valid, _⟩ := accepted
  have form := dateDigits_encodedDate accepted
  have validTime : Valid (localTime (encodedDate s.inRec)) := localTime_encodedDate accepted ▸ valid
  obtain ⟨lo, hi⟩ := utcTime_year_bounds form validTime
  obtain ⟨validUtc, -⟩ := utcTime_spec (encodedDate s.inRec)
  have utc := (timeOf_dateRecord validUtc (by omega) (by omega)).trans (utcTime_encodedDate accepted)
  refine ⟨_, exec_decdate _, ?_⟩
  simp only [outHex, decdate_eq, if_pos form, if_pos validTime]
  refine ⟨rfl, utc, rfl, rfl, fun zero => utc.trans ?_⟩
  rw [zero, Int.mul_zero, Int.sub_zero, civil_secs valid]

/-- Settles O50: with offset zero DECDATE's record holds the string's own local fields, which ENCDATE writes back. -/
theorem decodedUtcDateEncodesBack : Obligations.DecodedUtcDateEncodesBack := by
  intro s d run done utc fits
  obtain ⟨form, valid, config, outRec⟩ := exec_decdate_result run done
  have noOffset : tzOffset (tzOctet s.inHex) = 0 := by rcases utc with e | e <;> rw [e] <;> rfl
  rw [utcTime, noOffset, Int.mul_zero, Int.sub_zero, civil_secs valid] at outRec
  have ⟨_, length, _⟩ := form
  rw [length] at fits
  have digits := encodedDate_of_localTime form (timeOf_dateRecord_localTime form valid)
  rw [wireOffset_dateRecord] at digits
  refine ⟨_, exec_encdate _, ?_⟩
  simp only [outRec, config, encdate_ok (dateAccepted_dateRecord form valid) fits]
  refine ⟨rfl, digits, fun zero => digits.trans ?_⟩
  rw [← drop_twelve_of_tzOctet_zero form zero, List.take_append_drop]

/-- Settles O51: a record ENCDATE accepts has six fields below 100, each of which is two decimal digits. -/
theorem encdateOutputShape : Obligations.EncdateOutputShape := by
  intro s e run done
  obtain ⟨accepted, outHex⟩ := exec_encdate_result run done
  rw [outHex]
  exact ⟨rfl, fun _ => encodedDate_decimal accepted⟩

/-- Settles O43: by the two readings of the leap rule and of a month's length. -/
theorem calendarValidity : Obligations.CalendarValidity := fun _ => validLocal_iff_valid

/-- Settles O46: the encoded octet in numbers, read back as sign and magnitude. -/
theorem timezoneOctetCodec : Obligations.TimezoneOctetCodec := by
  refine ⟨tzDecode_eq_tzOffset, fun off lo hi => ⟨?_, tzEncode_toNat lo hi⟩⟩
  rw [tzDecode_eq_tzOffset, tzOffset_tzEncode lo hi]

end Sys2Proof.Proofs
end

section
/-!
PROOFS. The family 43_number.md. First the filler put at the end of a text and taken off it, then what DECNUM and ENCNUM answer,
then the statements.
-/

namespace Sys2Proof.Proofs

open Sys2Proof Sys2Proof.Machine Sys2Proof.Claim Sys2Proof.Laws

/-! ### The filler -/

/-- A text of an odd count with the filler after it (43_number.md R192); `encnum_ok` says that ENCNUM writes its pairs. -/
def addFiller (t : Text) : Text := if t.length % 2 = 1 then t ++ ['F'] else t

/-- A text without one final filler (43_number.md R190); `numberText_eq` says that this is what DECNUM takes off. -/
def dropFiller (t : Text) : Text := if t.getLast? = some 'F' then t.dropLast else t

theorem numberText_eq (h : HexString) : numberText h = dropFiller (swapNibbles h) := by
  rw [numberText, swapped_eq_swapNibbles, dropFiller]

theorem addFiller_of_odd {t : Text} (odd : t.length % 2 = 1) : addFiller t = t ++ ['F'] := if_pos odd

theorem addFiller_of_even {t : Text} (even : t.length % 2 = 0) : addFiller t = t := if_neg (by omega)

theorem addFiller_length (t : Text) : (addFiller t).length = t.length + t.length % 2 := by
  rcases Nat.mod_two_eq_zero_or_one t.length with even | odd
  · rw [addFiller_of_even even, even, Nat.add_zero]
  · rw [addFiller_of_odd odd, odd, List.length_append, List.length_singleton]

theorem addFiller_length_even (t : Text) : (addFiller t).length % 2 = 0 := by rw [addFiller_length]; omega

theorem isHex_of_mem_addFiller {t : Text} (digits : ∀ c ∈ t, isHex c = true) : ∀ c ∈ addFiller t, isHex c = true := by
  rw [addFiller]
  split_ifs
  · rw [List.forall_mem_append, List.forall_mem_singleton]
    exact ⟨digits, by decide⟩
  · exact digits

theorem dropFiller_of_getLast {t : Text} (ends : t.getLast? = some 'F') : dropFiller t = t.dropLast := if_pos ends

theorem dropFiller_of_getLast_ne {t : Text} (ends : t.getLast? ≠ some 'F') : dropFiller t = t := if_neg ends

theorem dropFiller_concat (t : Text) : dropFiller (t ++ ['F']) = t := by
  rw [dropFiller_of_getLast List.getLast?_concat, List.dropLast_concat]

theorem dropFiller_length (t : Text) : (dropFiller t).length = t.length ∨ (dropFiller t).length + 1 = t.length := by
  by_cases ends : t.getLast? = some 'F'
  · rw [← List.dropLast_append_getLast? 'F' ends, dropFiller_concat, List.length_append]
    exact .inr rfl
  · exact .inl (by rw [dropFiller_of_getLast_ne ends])

theorem mem_of_mem_dropFiller {c : Char} {t : Text} (mem : c ∈ dropFiller t) : c ∈ t := by
  rw [dropFiller] at mem
  split_ifs at mem
  · exact List.mem_of_mem_dropLast mem
  · exact mem

theorem dropFiller_addFiller_of_odd {t : Text} (odd : t.length % 2 = 1) : dropFiller (addFiller t) = t := by
  rw [addFiller_of_odd odd, dropFiller_concat]

theorem dropFiller_addFiller_of_even {t : Text} (even : t.length % 2 = 0) : dropFiller (addFiller t) = dropFiller t := by
  rw [addFiller_of_even even]

theorem dropFiller_addFiller_of_getLast_ne {t : Text} (ends : t.getLast? ≠ some 'F') : dropFiller (addFiller t) = t := by
  rcases Nat.mod_two_eq_zero_or_one t.length with even | odd
  · rw [dropFiller_addFiller_of_even even, dropFiller_of_getLast_ne ends]
  · exact dropFiller_addFiller_of_odd odd

theorem dropFiller_addFiller_length_le (t : Text) : (dropFiller (addFiller t)).length ≤ t.length := by
  rcases Nat.mod_two_eq_zero_or_one t.length with even | odd
  · rw [dropFiller_addFiller_of_even even]
    have := dropFiller_length t
    omega
  · rw [dropFiller_addFiller_of_odd odd]

/-- A filler taken off an even count leaves an odd one, which gets it back (43_number.md R193 (d)). -/
theorem addFiller_dropFiller {t : Text} (even : t.length % 2 = 0) : addFiller (dropFiller t) = t := by
  by_cases ends : t.getLast? = some 'F'
  · have odd : t.dropLast.length % 2 = 1 := by
      have := congrArg List.length (List.dropLast_append_getLast? 'F' ends)
      rw [List.length_append, List.length_singleton] at this
      omega
    rw [dropFiller_of_getLast ends, addFiller_of_odd odd, List.dropLast_append_getLast? 'F' ends]
  · rw [dropFiller_of_getLast_ne ends, addFiller_of_even even]

theorem getLast_ne_filler_of_allDecimal {t : Text} (decimal : AllDecimal t) : t.getLast? ≠ some 'F' := by
  intro ends
  have digit := List.all_eq_true.mp decimal 'F' (List.mem_of_getLast? ends)
  exact absurd digit (by decide)

/-! ### DECNUM -/

theorem exec_decnum (s : State) : exec .decnum s = .next (s.finishText (decnum s.config s.inHex)) := rfl

theorem decnum_ok {c : Config} {h : HexString} (p : HexPairs h) (fits : Fits c.maxText (numberText h).length) :
    decnum c h = .ok (numberText h) := by
  rw [decnum_of_hexPairs c p, checkCapacity_ok fits]
  rfl

theorem decnum_of_not_hexPairs (c : Config) {h : HexString} (p : ¬ HexPairs h) : decnum c h = .error .malformed := by
  obtain ⟨ok, -⟩ | ⟨refused, -⟩ := checkHex_cases h
  · exact absurd (checkHex_ok_iff.mp ok) p
  · rw [decnum, refused]
    rfl

theorem exec_decnum_result {s d : State} (run : exec .decnum s = .next d) (done : d.status = statusDone) :
    HexPairs s.inHex ∧ d.outText = numberText s.inHex ∧ d.config = s.config := by
  rw [exec_decnum] at run
  by_cases p : HexPairs s.inHex
  · by_cases fits : Fits s.config.maxText (numberText s.inHex).length
    · rw [decnum_ok p fits] at run
      cases run
      exact ⟨p, rfl, rfl⟩
    · rw [decnum_overCapacity p fits] at run
      cases run
      exact absurd done (raise_not_done s _)
  · rw [decnum_of_not_hexPairs _ p] at run
    cases run
    exact absurd done (raise_not_done s _)

/-! ### ENCNUM -/

theorem exec_encnum (s : State) : exec .encnum s = .next (s.finishHex (encnum s.config s.inText)) := rfl

theorem allDigits_iff {t : Text} : AllDigits t ↔ ∀ c ∈ t, isHex c = true := by
  simp [AllDigits, isHex_iff_isDigit]

/-- On hex digits ENCNUM is the filled text's pairs under the capacity check (43_number.md R192, D8). -/
theorem encnum_of_digits (c : Config) {t : Text} (digits : ∀ ch ∈ t, isHex ch = true) :
    encnum c t = (do checkCapacity c.maxHex (addFiller t).length; return swapNibbles (addFiller t)) := by
  simp only [encnum, List.all_eq_true.mpr digits, addFiller]
  rfl

theorem encnum_ok {c : Config} {t : Text} (digits : ∀ ch ∈ t, isHex ch = true)
    (fits : Fits c.maxHex (addFiller t).length) : encnum c t = .ok (swapNibbles (addFiller t)) := by
  rw [encnum_of_digits c digits, checkCapacity_ok fits]
  rfl

theorem encnum_tooLong {c : Config} {t : Text} (digits : ∀ ch ∈ t, isHex ch = true)
    (tooLong : ¬ Fits c.maxHex (addFiller t).length) : encnum c t = .error .malformed := by
  rw [encnum_of_digits c digits, checkCapacity_error tooLong]
  rfl

theorem encnum_of_not_digits (c : Config) {t : Text} (refused : ¬ ∀ ch ∈ t, isHex ch = true) :
    encnum c t = .error .malformed := by
  have notAll : t.all isHex = false := Bool.eq_false_iff.mpr (mt List.all_eq_true.mp refused)
  rw [encnum, if_pos notAll]
  rfl

theorem exec_encnum_result {s e : State} (run : exec .encnum s = .next e) (done : e.status = statusDone) :
    (∀ c ∈ s.inText, isHex c = true) ∧ e.outHex = swapNibbles (addFiller s.inText) ∧ e.config = s.config := by
  rw [exec_encnum] at run
  by_cases digits : ∀ c ∈ s.inText, isHex c = true
  · by_cases fits : Fits s.config.maxHex (addFiller s.inText).length
    · rw [encnum_ok digits fits] at run
      cases run
      exact ⟨digits, rfl, rfl⟩
    · rw [encnum_tooLong digits fits] at run
      cases run
      exact absurd done (raise_not_done s _)
  · rw [encnum_of_not_digits _ digits] at run
    cases run
    exact absurd done (raise_not_done s _)

/-! ### One command after the other -/

/-- DECNUM swaps ENCNUM's pairs back (43_number.md R193). -/
theorem numberText_swapNibbles_addFiller (t : Text) :
    numberText (swapNibbles (addFiller t)) = dropFiller (addFiller t) := by
  rw [numberText_eq, swapNibbles_swapNibbles (addFiller_length_even t)]

/-- ENCNUM restores the filler that DECNUM took off (43_number.md R193 (d)). -/
theorem addFiller_numberText {h : HexString} (p : HexPairs h) : addFiller (numberText h) = swapNibbles h := by
  rw [numberText_eq, addFiller_dropFiller (hexPairs_swapNibbles p.1).2]

theorem isHex_of_mem_numberText {h : HexString} (p : HexPairs h) : ∀ c ∈ numberText h, isHex c = true := by
  rw [numberText_eq]
  exact fun c mem => p.1 c (mem_of_mem_swapNibbles (mem_of_mem_dropFiller mem))

/-- R193 (a) to (c) as a run: DECNUM takes one filler off the text ENCNUM filled. -/
theorem exec_decnum_after_encnum {s e : State} (fits : Fits s.config.maxText s.inText.length)
    (run : exec .encnum s = .next e) (done : e.status = statusDone) :
    ∃ d : State, exec .decnum { e with inHex := e.outHex } = .next d ∧ d.status = statusDone ∧
      d.outText = dropFiller (addFiller s.inText) := by
  obtain ⟨digits, outHex, config⟩ := exec_encnum_result run done
  have operand : HexPairs (swapNibbles (addFiller s.inText)) := hexPairs_swapNibbles (isHex_of_mem_addFiller digits)
  have text := numberText_swapNibbles_addFiller s.inText
  have textFits : Fits s.config.maxText (numberText (swapNibbles (addFiller s.inText))).length :=
    fun m cap => text ▸ (dropFiller_addFiller_length_le s.inText).trans (fits m cap)
  refine ⟨_, exec_decnum _, ?_⟩
  simp only [outHex, config, decnum_ok operand textFits]
  exact ⟨rfl, text⟩

/-- R193 (d) as a run: ENCNUM writes back the string DECNUM read. -/
theorem exec_encnum_after_decnum {s d : State} (run : exec .decnum s = .next d) (done : d.status = statusDone)
    (fits : Fits s.config.maxHex s.inHex.length) :
    ∃ e : State, exec .encnum { d with inText := d.outText } = .next e ∧ e.status = statusDone ∧ e.outHex = s.inHex := by
  obtain ⟨p, outText, config⟩ := exec_decnum_result run done
  have filled := addFiller_numberText p
  have filledFits : Fits s.config.maxHex (addFiller (numberText s.inHex)).length := by
    rwa [filled, swapNibbles_length, p.two_mul_half]
  refine ⟨_, exec_encnum _, ?_⟩
  simp only [outText, config, encnum_ok (isHex_of_mem_numberText p) filledFits, filled]
  exact ⟨rfl, swapNibbles_swapNibbles p.2⟩

/-! ### The statements -/

/-- Settles O52: DECNUM's function is the statement's text under the checks of its operand and of the capacity, and it takes at
most one character off the swapped string. -/
theorem decnumReadsSemiOctets : Obligations.DecnumReadsSemiOctets := by
  refine ⟨rfl, fun s => ⟨fun operand fits => ?_, fun operand => ?_, fun refused => ?_⟩⟩
  · rw [exec_decnum, decnum_ok (hexOperand_iff_hexPairs.mp operand) (fits_of_not_exceeds fits)]
    rfl
  · have length := dropFiller_length (swapNibbles s.inHex)
    rwa [← numberText_eq, swapNibbles_length, (hexOperand_iff_hexPairs.mp operand).two_mul_half] at length
  · rw [exec_decnum, decnum_of_not_hexPairs _ (mt hexOperand_iff_hexPairs.mpr refused), finishText_error, failed_eq_raise]

/-- Settles O53: ENCNUM's function is the filled text's pairs under the checks of the alphabet and of the capacity. -/
theorem encnumWritesSemiOctets : Obligations.EncnumWritesSemiOctets := by
  refine ⟨rfl, fun s => ⟨fun digits fits => ?_, fun digits tooLong => ?_, fun refused => ?_⟩⟩
  · rw [← addFiller_length] at fits
    rw [exec_encnum, encnum_ok (allDigits_iff.mp digits) (fits_of_not_exceeds fits), ← addFiller, swapped_eq_swapNibbles]
    rfl
  · rw [← addFiller_length] at tooLong
    rw [exec_encnum, encnum_tooLong (allDigits_iff.mp digits) (exceeds_iff_not_fits.mp tooLong), finishHex_error,
      failed_eq_raise]
  · rw [exec_encnum, encnum_of_not_digits _ (mt allDigits_iff.mpr refused), finishHex_error, failed_eq_raise]

/-- Settles O54: the filler goes on and comes off again, but for a final 'F' of an even text, which DECNUM takes for one; and what
DECNUM takes off, ENCNUM puts back. -/
theorem numberRoundTrips : Obligations.NumberRoundTrips := by
  refine ⟨fun s e fits run done => ?_, fun s d => exec_encnum_after_decnum⟩
  obtain ⟨d, decoded, decodedDone, text⟩ := exec_decnum_after_encnum fits run done
  refine ⟨d, decoded, decodedDone, fun decimal => ?_, fun ends => ?_, fun ends even => ?_, fun _ odd => ?_⟩ <;> rw [text]
  · exact dropFiller_addFiller_of_getLast_ne (getLast_ne_filler_of_allDecimal decimal)
  · exact dropFiller_addFiller_of_getLast_ne ends
  · rw [dropFiller_addFiller_of_even even, dropFiller_of_getLast ends]
  · exact dropFiller_addFiller_of_odd odd

end Sys2Proof.Proofs
end

section
/-!
PROOFS. The family 44_toa.md. First an octet's two digits, then the octet and its codes, then what DECTOA and ENCTOA answer, then
the statements.
-/

namespace Sys2Proof.Proofs

open Sys2Proof Sys2Proof.Machine Sys2Proof.Claim Sys2Proof.Laws

/-! ### The two digits of an octet -/

/-- The wire string of one octet, in numbers (00_scope.md R11); `hexOf_singleton` says that it is the machine's. -/
def octetDigits (b : Nat) : HexString := [digitOf (b / 16), digitOf (b % 16)]

theorem hexOf_singleton {b : Nat} (octet : b < 256) : hexOf [BitVec.ofNat 8 b] = octetDigits b := by
  rw [hexOf, hexOf, List.append_nil, hexOctet_eq_digits, Nat.mod_eq_of_lt octet, octetDigits]

theorem hexPairs_octetDigits {b : Nat} (octet : b < 256) : HexPairs (octetDigits b) :=
  hexOf_singleton octet ▸ hexPairs_hexOf _

theorem octetAt_octetDigits {b : Nat} (octet : b < 256) : octetAt (octetDigits b) 0 = b := by
  have value : octetAt (octetDigits b) 0 = 16 * val (digitOf (b / 16)) + val (digitOf (b % 16)) := rfl
  rw [value, val_digitOf (by omega), val_digitOf (by omega)]
  omega

theorem octetDigits_octetAt {h : HexString} (p : HexPairs h) (length : h.length = 2) : octetDigits (octetAt h 0) = h := by
  obtain ⟨hi, lo, rfl⟩ := List.length_eq_two.mp length
  have hiDigit : IsDigit hi := isHex_iff_isDigit.mp (p.1 hi (by simp))
  have loDigit : IsDigit lo := isHex_iff_isDigit.mp (p.1 lo (by simp))
  have value : octetAt [hi, lo] 0 = 16 * val hi + val lo := rfl
  have := val_lt loDigit
  rw [octetDigits, value, show (16 * val hi + val lo) / 16 = val hi by omega,
    show (16 * val hi + val lo) % 16 = val lo by omega, digitOf_val hiDigit, digitOf_val loDigit]

theorem octetAt_lt {h : HexString} (digits : ∀ c ∈ h, isHex c = true) (j : Nat) : octetAt h j < 256 := by
  have digit := isDigit_at' (allDigits_iff.mpr digits)
  have := val_lt (digit (2 * j))
  have := val_lt (digit (2 * j + 1))
  rw [octetAt]
  omega

/-! ### The octet and its codes -/

/-- What DECTOA asks of an octet, in numbers (44_toa.md R210): the fixed bit, and an NPI the configuration has. -/
abbrev ToaAccepted (c : Config) (b : Nat) : Prop := 128 ≤ b ∧ NpiDefined c (b % 16)

/-- What ENCTOA asks of a record (44_toa.md R212). -/
abbrev ToaEncodable (c : Config) (r : Rec) : Prop := r.ton.toNat ≤ 7 ∧ NpiDefined c r.npi.toNat

/-- The record of an octet, in numbers (44_toa.md R210); `toaRecord_eq` says that DECTOA writes it. -/
def toaFields (b : Nat) : Rec := { Rec.zero with ton := BitVec.ofNat 8 (b / 16 % 8), npi := BitVec.ofNat 8 (b % 16) }

/-- The octet of a record, in numbers (44_toa.md R212); `enctoa_ok` says that ENCTOA writes its digits. -/
def toaOctet (r : Rec) : Nat := 0x80 + 16 * r.ton.toNat + r.npi.toNat

@[simp] theorem toaFields_ton (b : Nat) : (toaFields b).ton.toNat = b / 16 % 8 := by
  rw [toaFields, BitVec.toNat_ofNat]
  omega

@[simp] theorem toaFields_npi (b : Nat) : (toaFields b).npi.toNat = b % 16 := by
  rw [toaFields, BitVec.toNat_ofNat]
  omega

theorem octetTon_toNat (o : Octet) : ((o.extractLsb' 4 3).setWidth 8).toNat = o.toNat / 16 % 8 := by
  rw [BitVec.toNat_setWidth, BitVec.extractLsb'_toNat, Nat.shiftRight_eq_div_pow]
  omega

theorem octetNpi_toNat (o : Octet) : ((o.extractLsb' 0 4).setWidth 8).toNat = o.toNat % 16 := by
  rw [BitVec.toNat_setWidth, BitVec.extractLsb'_toNat, Nat.shiftRight_zero]
  omega

theorem toaRecord_eq (o : Octet) : toaRecord o = toaFields o.toNat := by
  have ton : (o.extractLsb' 4 3).setWidth 8 = (toaFields o.toNat).ton :=
    BitVec.eq_of_toNat_eq ((octetTon_toNat o).trans (toaFields_ton _).symm)
  have npi : (o.extractLsb' 0 4).setWidth 8 = (toaFields o.toNat).npi :=
    BitVec.eq_of_toNat_eq ((octetNpi_toNat o).trans (toaFields_npi _).symm)
  rw [toaRecord, ton, npi]
  rfl

theorem fixedBit_eq_false_iff (o : Octet) : o.getLsbD 7 = false ↔ o.toNat < 128 := by
  revert o
  decide

theorem npiDefined_lt {c : Config} {n : Nat} (npi : NpiDefined c n) : n < 16 := by
  obtain ⟨d, -, rfl⟩ := npi
  exact d.isLt

/-- The fixed bit puts the octet's first digit at 8 and above, and the NPI is its second one. -/
theorem octetDigits_toaOctet {r : Rec} (npi : r.npi.toNat < 16) :
    octetDigits (toaOctet r) = [digitOf (8 + r.ton.toNat), digitOf r.npi.toNat] := by
  rw [octetDigits, toaOctet, show (0x80 + 16 * r.ton.toNat + r.npi.toNat) / 16 = 8 + r.ton.toNat by omega,
    show (0x80 + 16 * r.ton.toNat + r.npi.toNat) % 16 = r.npi.toNat by omega]

theorem toaEncodable_toaFields {c : Config} {b : Nat} (accepted : ToaAccepted c b) : ToaEncodable c (toaFields b) := by
  rw [ToaEncodable, toaFields_ton, toaFields_npi]
  exact ⟨by omega, accepted.2⟩

theorem toaOctet_toaFields {b : Nat} (fixedBit : 128 ≤ b) (octet : b < 256) : toaOctet (toaFields b) = b := by
  rw [toaOctet, toaFields_ton, toaFields_npi]
  omega

section

variable {c : Config} {r : Rec} (encodable : ToaEncodable c r)
include encodable

theorem toaOctet_lt : toaOctet r < 256 := by
  obtain ⟨ton, npi⟩ := encodable
  have := npiDefined_lt npi
  rw [toaOctet]
  omega

theorem toaOctet_mod : toaOctet r % 16 = r.npi.toNat := by
  have := npiDefined_lt encodable.2
  rw [toaOctet]
  omega

theorem toaAccepted_toaOctet : ToaAccepted c (toaOctet r) := by
  refine ⟨?_, (toaOctet_mod encodable).symm ▸ encodable.2⟩
  rw [toaOctet]
  omega

theorem toaFields_toaOctet : (toaFields (toaOctet r)).ton = r.ton ∧ (toaFields (toaOctet r)).npi = r.npi := by
  obtain ⟨ton, npi⟩ := encodable
  have := npiDefined_lt npi
  constructor <;> apply BitVec.eq_of_toNat_eq
  · rw [toaFields_ton, toaOctet]
    omega
  · rw [toaFields_npi, toaOctet_mod ⟨ton, npi⟩]

end

/-! ### DECTOA -/

theorem exec_dectoa (s : State) : exec .dectoa s = .next (s.finishRec (dectoa s.config s.inHex)) := rfl

/-- On two digits DECTOA is the record of their octet under the two checks of R210. -/
theorem dectoa_of_digits (c : Config) {h : HexString} (p : HexPairs h) (length : h.length = 2) :
    dectoa c h = if ToaAccepted c (octetAt h 0) then .ok (toaFields (octetAt h 0)) else .error .validation := by
  obtain ⟨hi, lo, rfl⟩ := List.length_eq_two.mp length
  have octet : (octetOf hi lo).toNat = octetAt [hi, lo] 0 := octetOf_toNat (p.1 hi (by simp)) (p.1 lo (by simp))
  have npi : c.npiIsDefined (((octetOf hi lo).extractLsb' 0 4).setWidth 8) = false ↔
      ¬ NpiDefined c (octetAt [hi, lo] 0 % 16) := by
    rw [← Bool.not_eq_true, npiIsDefined_iff, octetNpi_toNat, octet]
  simp only [dectoa, checkHex_ok_iff.mpr p, octets, fixedBit_eq_false_iff, npi, toaRecord_eq, octet]
  by_cases fixedBit : 128 ≤ octetAt [hi, lo] 0
  · simp only [ToaAccepted, fixedBit, true_and, if_neg (Nat.not_lt.mpr fixedBit), ite_not]
    rfl
  · simp only [ToaAccepted, fixedBit, false_and, if_pos (Nat.not_le.mp fixedBit)]
    rfl

theorem dectoa_ok {c : Config} {h : HexString} (p : HexPairs h) (length : h.length = 2)
    (accepted : ToaAccepted c (octetAt h 0)) : dectoa c h = .ok (toaFields (octetAt h 0)) := by
  rw [dectoa_of_digits c p length, if_pos accepted]

theorem dectoa_refused {c : Config} {h : HexString} (p : HexPairs h) (length : h.length = 2)
    (refused : ¬ ToaAccepted c (octetAt h 0)) : dectoa c h = .error .validation := by
  rw [dectoa_of_digits c p length, if_neg refused]

theorem dectoa_malformed (c : Config) {h : HexString} (malformed : ¬ (HexPairs h ∧ h.length = 2)) :
    dectoa c h = .error .malformed := by
  obtain ⟨ok, p⟩ | ⟨refused, -⟩ := checkHex_cases h
  · have notOne : (octets h).length ≠ 1 := by
      have notTwo : h.length ≠ 2 := fun length => malformed ⟨p, length⟩
      have := p.2
      rw [octets_length]
      omega
    rw [dectoa, ok]
    match octets h, notOne with
    | [], _ => rfl
    | _ :: _ :: _, _ => rfl
  · rw [dectoa, refused]
    rfl

theorem dectoa_octetDigits (c : Config) {b : Nat} (octet : b < 256) :
    dectoa c (octetDigits b) = if ToaAccepted c b then .ok (toaFields b) else .error .validation := by
  rw [dectoa_of_digits c (hexPairs_octetDigits octet) rfl, octetAt_octetDigits octet]

theorem exec_dectoa_result {s d : State} (run : exec .dectoa s = .next d) (done : d.status = statusDone) :
    (HexPairs s.inHex ∧ s.inHex.length = 2) ∧ ToaAccepted s.config (octetAt s.inHex 0) ∧
      d.outRec = toaFields (octetAt s.inHex 0) ∧ d.config = s.config := by
  rw [exec_dectoa] at run
  by_cases operand : HexPairs s.inHex ∧ s.inHex.length = 2
  · obtain ⟨p, length⟩ := operand
    by_cases accepted : ToaAccepted s.config (octetAt s.inHex 0)
    · rw [dectoa_ok p length accepted] at run
      cases run
      exact ⟨⟨p, length⟩, accepted, rfl, rfl⟩
    · rw [dectoa_refused p length accepted] at run
      cases run
      exact absurd done (raise_not_done s _)
  · rw [dectoa_malformed _ operand] at run
    cases run
    exact absurd done (raise_not_done s _)

/-- Of the two digits of an octet DECTOA ends DONE exactly when it accepts the octet. -/
theorem finishRec_dectoa_done_iff (s : State) (c : Config) {b : Nat} (octet : b < 256) :
    (s.finishRec (dectoa c (octetDigits b))).status = statusDone ↔ ToaAccepted c b := by
  rw [dectoa_octetDigits c octet]
  split_ifs with accepted
  · exact iff_of_true (finishRec_ok_status s _) accepted
  · exact iff_of_false (raise_not_done s _) accepted

/-- R213 (c): the 8 TON patterns with each of the 10 default NPI codes. -/
theorem accepted_octets_count :
    ((List.range 256).filter fun b => decide (ToaAccepted defaultConfig b)).length = 80 := by decide

/-! ### ENCTOA -/

theorem exec_enctoa (s : State) : exec .enctoa s = .next (s.finishHex (enctoa s.config s.inRec)) := rfl

theorem enctoa_ok {c : Config} {r : Rec} (encodable : ToaEncodable c r) (fits : Fits c.maxHex 2) :
    enctoa c r = .ok (octetDigits (toaOctet r)) := by
  obtain ⟨ton, npi⟩ := encodable
  rw [← hexOf_singleton (toaOctet_lt ⟨ton, npi⟩)]
  simp only [enctoa, if_neg (Nat.not_lt.mpr ton), npiIsDefined_iff.mpr npi, checkCapacity_ok fits]
  rfl

theorem enctoa_refused {c : Config} {r : Rec} (refused : ¬ ToaEncodable c r) : enctoa c r = .error .validation := by
  by_cases ton : r.ton.toNat ≤ 7
  · have npi : c.npiIsDefined r.npi = false :=
      Bool.eq_false_iff.mpr fun defined => refused ⟨ton, npiIsDefined_iff.mp defined⟩
    rw [enctoa, if_neg (Nat.not_lt.mpr ton), if_pos npi]
    rfl
  · rw [enctoa, if_pos (Nat.not_le.mp ton)]
    rfl

/-! ### One command after the other -/

/-- R213 (a) as a run: DECTOA reads the codes ENCTOA wrote. -/
theorem exec_dectoa_after_enctoa {s : State} (encodable : ToaEncodable s.config s.inRec) (fits : Fits s.config.maxHex 2) :
    ∃ e d : State, exec .enctoa s = .next e ∧ exec .dectoa { e with inHex := e.outHex } = .next d ∧
      d.status = statusDone ∧ d.outRec.ton = s.inRec.ton ∧ d.outRec.npi = s.inRec.npi := by
  have decoded : dectoa s.config (octetDigits (toaOctet s.inRec)) = .ok (toaFields (toaOctet s.inRec)) := by
    rw [dectoa_octetDigits _ (toaOctet_lt encodable), if_pos (toaAccepted_toaOctet encodable)]
  refine ⟨_, _, exec_enctoa s, exec_dectoa _, ?_⟩
  simp only [enctoa_ok encodable fits, finishHex_ok_outHex, finishHex_ok_config, decoded]
  exact ⟨rfl, toaFields_toaOctet encodable⟩

/-- R213 (b) as a run: ENCTOA writes back the string DECTOA read. -/
theorem exec_enctoa_after_dectoa {s d : State} (fits : Fits s.config.maxHex s.inHex.length)
    (run : exec .dectoa s = .next d) (done : d.status = statusDone) :
    ∃ e : State, exec .enctoa { d with inRec := d.outRec } = .next e ∧ e.status = statusDone ∧ e.outHex = s.inHex := by
  obtain ⟨⟨p, length⟩, accepted, outRec, config⟩ := exec_dectoa_result run done
  have encoded : enctoa s.config (toaFields (octetAt s.inHex 0)) = .ok s.inHex := by
    rw [enctoa_ok (toaEncodable_toaFields accepted) (length ▸ fits), toaOctet_toaFields accepted.1 (octetAt_lt p.1 0),
      octetDigits_octetAt p length]
  refine ⟨_, exec_enctoa _, ?_⟩
  simp only [outRec, config, encoded]
  exact ⟨rfl, rfl⟩

/-! ### The statements -/

/-- Settles O55: DECTOA's function is the statement's record under the checks of the operand and of the octet. -/
theorem dectoaReadsTonAndNpi : Obligations.DectoaReadsTonAndNpi := by
  refine ⟨rfl, fun s => ⟨fun malformed => ?_, fun operand length noFixedBit => ?_, fun operand length _ noNpi => ?_,
    fun operand length fixedBit npi => ?_⟩⟩ <;> rw [exec_dectoa]
  · rw [dectoa_malformed _ (mt (And.imp_left hexOperand_iff_hexPairs.mpr) malformed), finishRec_error, failed_eq_raise]
  · have refused : ¬ ToaAccepted s.config (octetAt s.inHex 0) := fun accepted => Nat.not_le.mpr noFixedBit accepted.1
    rw [dectoa_refused (hexOperand_iff_hexPairs.mp operand) length refused, finishRec_error, failed_eq_raise]
  · have refused : ¬ ToaAccepted s.config (octetAt s.inHex 0) := fun accepted => noNpi accepted.2
    rw [dectoa_refused (hexOperand_iff_hexPairs.mp operand) length refused, finishRec_error, failed_eq_raise]
  · rw [dectoa_ok (hexOperand_iff_hexPairs.mp operand) length ⟨fixedBit, npi⟩]
    rfl

/-- Settles O56: ENCTOA's function is the octet's two digits under the checks of TON, of NPI and of the capacity. -/
theorem enctoaWritesTonAndNpi : Obligations.EnctoaWritesTonAndNpi := by
  refine ⟨rfl, fun s => ⟨fun ton npi fits => ?_, fun tooLarge => ?_, fun noNpi => ?_⟩⟩ <;> rw [exec_enctoa]
  · rw [enctoa_ok ⟨ton, npi⟩ (fits_of_not_exceeds fits), octetDigits_toaOctet (npiDefined_lt npi)]
    rfl
  · rw [enctoa_refused fun encodable => Nat.not_le.mpr tooLarge encodable.1, finishHex_error, failed_eq_raise]
  · rw [enctoa_refused fun encodable => noNpi encodable.2, finishHex_error, failed_eq_raise]

/-- Settles O57: an accepted octet and its two codes determine each other, and the runs that end DONE are counted by the octets
DECTOA accepts. -/
theorem typeOfAddressLaws : Obligations.TypeOfAddressLaws := by
  refine ⟨fun s ton npi => exec_dectoa_after_enctoa ⟨ton, npi⟩, fun s d => exec_enctoa_after_dectoa,
    (congrArg List.length (List.filter_congr fun b inRange => ?_)).trans accepted_octets_count⟩
  rw [Bool.eq_iff_iff, decide_eq_true_eq, exec_dectoa]
  exact beq_iff_eq.trans (finishRec_dectoa_done_iff _ _ (List.mem_range.mp inRange))

end Sys2Proof.Proofs
end

section
/-!
PROOFS. The family 60_exceptions.md. First the words R72 does not dispatch, what stops a turn and the characters in neither table,
then the errors each command ends with, then the statements.
-/

namespace Sys2Proof.Proofs

open Sys2Proof Sys2Proof.Machine Sys2Proof.Claim Sys2Proof.Laws

/-! ### Words that are not dispatched -/

theorem decode_illegal_of_not_dispatched {w : Word} (undispatched : ¬ Dispatched w) : ∃ why, decode w = .illegal why := by
  obtain ⟨unknown, reserved, flag, -⟩ := decodeClassifiesEveryWord w
  by_cases known : w.toNat % 256 ∈ opcodes
  · by_cases zero : w.toNat / 512 = 0
    · obtain ⟨p, notAllowed⟩ := Classical.not_imp.mp fun allowed => undispatched ⟨known, zero, allowed⟩
      exact ⟨_, flag known zero p notAllowed⟩
    · exact ⟨_, reserved known zero⟩
  · exact ⟨_, unknown known⟩

/-! ### What stops a turn -/

theorem hostAct_of_writes {a : HostAction} (writes : Writes a) (s : State) : ∃ e, hostAct a s = hostWrite s e := by
  cases a with
  | wrHex chars => exact ⟨s.writeHex chars, rfl⟩
  | wrText values => exact ⟨s.writeText values, rfl⟩
  | wrRec r => exact ⟨s.writeRec r, rfl⟩
  | cmd w => exact ⟨s.beginCommand w, rfl⟩
  | wait | rd _ | reset => exact writes.elim

theorem hostAct_next_of_not_writes {a : HostAction} (quiet : ¬ Writes a) (s : State) : ∃ t, hostAct a s = .next t := by
  cases a with
  | wait | rd _ | reset => exact ⟨_, rfl⟩
  | wrHex _ | wrText _ | wrRec _ | cmd _ => exact absurd trivial quiet

theorem hostAct_hazard {a : HostAction} {s : State} (busy : s.status = statusBusy) (writes : Writes a) :
    hostAct a s = .fault .hostHazard := by
  obtain ⟨e, write⟩ := hostAct_of_writes writes s
  obtain ⟨-, hazard⟩ | ⟨free, -⟩ := hostWrite_cases s e
  · rw [write, hazard]
  · exact absurd busy free

/-- All that a host action can come to: the hazard of 60_exceptions.md R242, or a next state. -/
theorem hostAct_cases (a : HostAction) (s : State) :
    (s.status = statusBusy ∧ Writes a ∧ hostAct a s = .fault .hostHazard) ∨ ∃ t, hostAct a s = .next t := by
  by_cases writes : Writes a
  · obtain ⟨e, write⟩ := hostAct_of_writes writes s
    rw [write]
    exact (hostWrite_cases s e).imp (fun ⟨busy, hazard⟩ => ⟨busy, writes, hazard⟩) fun ⟨_, next⟩ => ⟨e, next⟩
  · exact .inr (hostAct_next_of_not_writes writes s)

/-- All that a step can come to: the unit's turn answers a next state, so only a host write while BUSY stops the machine. -/
theorem step_hazard_or_next (s : State) :
    ((s.status = statusBusy ∧ s.delay ≠ 0 ∧ ∃ a rest, s.host = a :: rest ∧ Writes a) ∧ step s = .fault .hostHazard) ∨
    ∃ t, step s = .next t := by
  rcases step_cases s with ⟨-, ⟨i, -, run⟩ | ⟨_, -, run⟩⟩ | ⟨notReady, ⟨-, run⟩ | ⟨a, rest, host, run⟩⟩ <;> rw [run]
  · obtain ⟨t, next, -⟩ := everyCommandAnswers i s
    exact .inr ⟨t, next⟩
  · exact .inr ⟨_, rfl⟩
  · exact .inr ⟨_, rfl⟩
  · refine (hostAct_cases a { s with host := rest }).imp_left fun ⟨busy, writes, hazard⟩ => ?_
    have delayed : s.delay ≠ 0 := fun ended => by simp [(unitReady_iff s).mpr ⟨busy, ended⟩] at notReady
    exact ⟨⟨busy, delayed, a, rest, host, writes⟩, hazard⟩

/-! ### Characters in neither table -/

theorem charIndices_eq_none_iff {c : Config} {ch : Char} :
    charIndices c ch = none ↔ c.stdIndex ch = none ∧ c.extIndex ch = none := by
  rw [charIndices]
  cases c.stdIndex ch with
  | some i => simp
  | none => cases c.extIndex ch <;> simp

theorem indexList_eq_none_iff_exists {c : Config} {t : Text} :
    indexList c t = none ↔ ∃ ch ∈ t, c.stdIndex ch = none ∧ c.extIndex ch = none := by
  simp only [indexList_eq_indices, ← charIndices_eq_none_iff]
  induction t with
  | nil => simp [indices, Except.toOption]
  | cons ch rest ih =>
    rw [indices_cons_toOption, List.exists_mem_cons_iff, ← ih]
    cases charIndices c ch <;> simp

/-! ### The errors of each command -/

theorem failed_inj {s : State} {k l : ErrKind} : failed s k = failed s l ↔ k = l :=
  ⟨fun same => errCode_inj.mp (congrArg State.errcode (Host.Outcome.next.inj same)), congrArg (failed s)⟩

theorem done_ne_failed {s t : State} (done : t.status = statusDone) (k : ErrKind) : .next t ≠ failed s k := fun same =>
  have failure : t.status = statusError := congrArg State.status (Host.Outcome.next.inj same)
  absurd (done.symm.trans failure) (by decide)

/-- The errors a command ends with, command by command, each with the check that raises it (60_exceptions.md R231 to R233, R236).
`exec_failed_iff` says that these are `exec`'s. -/
def Raises (s : State) (k : ErrKind) : Instr → Prop
  | .revo => k = .malformed ∧ ¬ HexOperand s.inHex
  | .swpn => k = .malformed ∧ ¬ HexOperand s.inHex
  | .dec7 strip => k = .malformed ∧
      (¬ HexOperand s.inHex ∨ Exceeds s.config.maxText (decodedText s.config strip s.inHex).length)
  | .enc7 pad => (k = .encoding ∧ indexList s.config s.inText = none) ∨
      (k = .malformed ∧ ∃ idx, indexList s.config s.inText = some idx ∧
        Exceeds s.config.maxHex (2 * octetCount (padded s.config pad idx s.inText).length))
  | .decdate => (k = .malformed ∧ ¬ DateDigits s.inHex) ∨
      (k = .validation ∧ DateDigits s.inHex ∧ ¬ Valid (localTime s.inHex))
  | .encdate => (k = .validation ∧ ¬ DateAccepted s.inRec) ∨
      (k = .malformed ∧ DateAccepted s.inRec ∧ Exceeds s.config.maxHex 14)
  | .decnum => k = .malformed ∧ (¬ HexOperand s.inHex ∨ Exceeds s.config.maxText (numberText s.inHex).length)
  | .encnum => k = .malformed ∧
      (¬ AllDigits s.inText ∨ Exceeds s.config.maxHex (s.inText.length + s.inText.length % 2))
  | .dectoa => (k = .malformed ∧ ¬ (HexOperand s.inHex ∧ s.inHex.length = 2)) ∨
      (k = .validation ∧ (HexOperand s.inHex ∧ s.inHex.length = 2) ∧
        (octetAt s.inHex 0 < 128 ∨ ¬ NpiDefined s.config (octetAt s.inHex 0 % 16)))
  | .enctoa => (k = .validation ∧ ¬ ToaEncodable s.config s.inRec) ∨
      (k = .malformed ∧ ToaEncodable s.config s.inRec ∧ Exceeds s.config.maxHex 2)

section

variable {i : Instr} {s : State} {k : ErrKind}

/-- A command with a check of its operand and then one more: each raises its own error, and none is left once both pass. -/
theorem failed_iff_of_checks {first second : ErrKind} {accepted fails : Prop} (refused : ¬ accepted → exec i s = failed s first)
    (failing : accepted → fails → exec i s = failed s second)
    (passing : accepted → ¬ fails → ∃ t, exec i s = .next t ∧ t.status = statusDone) :
    exec i s = failed s k ↔ (k = first ∧ ¬ accepted) ∨ (k = second ∧ accepted ∧ fails) := by
  by_cases a : accepted
  · by_cases f : fails
    · rw [failing a f, failed_inj]
      simp [a, f, eq_comm]
    · obtain ⟨t, run, done⟩ := passing a f
      simp [run, done_ne_failed done, a, f]
  · rw [refused a, failed_inj]
    simp [a, eq_comm]

/-- The same where both checks raise MalformedInputError. -/
theorem failed_iff_of_malformed {accepted fails : Prop} (refused : ¬ accepted → exec i s = failed s .malformed)
    (failing : accepted → fails → exec i s = failed s .malformed)
    (passing : accepted → ¬ fails → ∃ t, exec i s = .next t ∧ t.status = statusDone) :
    exec i s = failed s k ↔ k = .malformed ∧ (¬ accepted ∨ fails) := by
  rw [failed_iff_of_checks refused failing passing, ← and_or_left]
  tauto

theorem exec_revo_failed_iff : exec .revo s = failed s k ↔ Raises s k .revo := by
  obtain ⟨-, revo⟩ := revoReversesOctets
  obtain ⟨done, refused⟩ := revo s
  have checks := failed_iff_of_malformed (k := k) refused (fun _ => False.elim) fun operand _ => ⟨_, done operand, rfl⟩
  rwa [or_false] at checks

theorem exec_swpn_failed_iff : exec .swpn s = failed s k ↔ Raises s k .swpn := by
  obtain ⟨-, swpn⟩ := swpnSwapsNibbles
  obtain ⟨done, refused⟩ := swpn s
  have checks := failed_iff_of_malformed (k := k) refused (fun _ => False.elim) fun operand _ => ⟨_, done operand, rfl⟩
  rwa [or_false] at checks

theorem exec_dec7_failed_iff {strip : Bool} : exec (.dec7 strip) s = failed s k ↔ Raises s k (.dec7 strip) := by
  obtain ⟨-, -, dec7⟩ := dec7DecodesPackedText
  obtain ⟨done, tooLong, refused⟩ := dec7 s strip
  exact failed_iff_of_malformed refused tooLong fun operand fits => ⟨_, done operand fits, rfl⟩

theorem exec_enc7_failed_iff {pad : Bool} : exec (.enc7 pad) s = failed s k ↔ Raises s k (.enc7 pad) := by
  obtain ⟨-, -, enc7⟩ := enc7EncodesText
  obtain ⟨done, tooLong, unencodable⟩ := enc7 s pad
  cases encodable : indexList s.config s.inText with
  | none =>
    rw [unencodable encodable, failed_inj, eq_comm (b := k)]
    simp [Raises, encodable]
  | some idx =>
    rw [failed_iff_of_malformed (accepted := True) (absurd trivial) (fun _ => tooLong idx encodable)
      fun _ fits => ⟨_, done idx encodable fits, rfl⟩]
    simp [Raises, encodable]

theorem exec_decdate_failed_iff : exec .decdate s = failed s k ↔ Raises s k .decdate := by
  obtain ⟨-, decdate⟩ := decdateDecodesToUtc
  obtain ⟨refused, invalid, done⟩ := decdate s
  refine failed_iff_of_checks refused invalid fun form valid => ?_
  obtain ⟨u, -, -, -, -, run⟩ := done form (not_not.mp valid)
  exact ⟨_, run, rfl⟩

theorem exec_encdate_failed_iff : exec .encdate s = failed s k ↔ Raises s k .encdate := by
  obtain ⟨-, encdate⟩ := encdateWritesLocalFields
  obtain ⟨done, refused⟩ := encdate s
  exact failed_iff_of_checks refused
    (fun accepted tooLong => resultOverCapacityIsMalformed _ s (.inr (.inl ⟨rfl, accepted, tooLong⟩)))
    fun accepted fits => ⟨_, done accepted fits, rfl⟩

theorem exec_decnum_failed_iff : exec .decnum s = failed s k ↔ Raises s k .decnum := by
  obtain ⟨-, decnum⟩ := decnumReadsSemiOctets
  obtain ⟨done, -, refused⟩ := decnum s
  exact failed_iff_of_malformed refused
    (fun operand tooLong => resultOverCapacityIsMalformed _ s (.inl ⟨rfl, operand, tooLong⟩))
    fun operand fits => ⟨_, done operand fits, rfl⟩

theorem exec_encnum_failed_iff : exec .encnum s = failed s k ↔ Raises s k .encnum := by
  obtain ⟨-, encnum⟩ := encnumWritesSemiOctets
  obtain ⟨done, tooLong, refused⟩ := encnum s
  exact failed_iff_of_malformed refused tooLong fun digits fits => ⟨_, done digits fits, rfl⟩

theorem exec_dectoa_failed_iff : exec .dectoa s = failed s k ↔ Raises s k .dectoa := by
  obtain ⟨-, dectoa⟩ := dectoaReadsTonAndNpi
  obtain ⟨refused, noFixedBit, noNpi, done⟩ := dectoa s
  refine failed_iff_of_checks refused (fun ⟨operand, length⟩ fails => ?_) fun ⟨operand, length⟩ passes => ?_
  · by_cases fixedBit : 128 ≤ octetAt s.inHex 0
    · exact noNpi operand length fixedBit (fails.resolve_left (Nat.not_lt.mpr fixedBit))
    · exact noFixedBit operand length (Nat.not_le.mp fixedBit)
  · obtain ⟨fixedBit, npi⟩ := not_or.mp passes
    exact ⟨_, done operand length (Nat.not_lt.mp fixedBit) (not_not.mp npi), rfl⟩

theorem exec_enctoa_failed_iff : exec .enctoa s = failed s k ↔ Raises s k .enctoa := by
  obtain ⟨-, enctoa⟩ := enctoaWritesTonAndNpi
  obtain ⟨done, tonTooLarge, noNpi⟩ := enctoa s
  refine failed_iff_of_checks (fun refused => ?_)
    (fun encodable tooLong => resultOverCapacityIsMalformed _ s (.inr (.inr ⟨rfl, encodable, tooLong⟩)))
    fun ⟨ton, npi⟩ fits => ⟨_, done ton npi fits, rfl⟩
  by_cases ton : s.inRec.ton.toNat ≤ 7
  · exact noNpi fun npi => refused ⟨ton, npi⟩
  · exact tonTooLarge (Nat.not_le.mp ton)

theorem exec_failed_iff : exec i s = failed s k ↔ Raises s k i := by
  cases i with
  | revo => exact exec_revo_failed_iff
  | swpn => exact exec_swpn_failed_iff
  | dec7 strip => exact exec_dec7_failed_iff
  | enc7 pad => exact exec_enc7_failed_iff
  | decdate => exact exec_decdate_failed_iff
  | encdate => exact exec_encdate_failed_iff
  | decnum => exact exec_decnum_failed_iff
  | encnum => exact exec_encnum_failed_iff
  | dectoa => exact exec_dectoa_failed_iff
  | enctoa => exact exec_enctoa_failed_iff

end

/-! ### The statements -/

/-- Settles O26: of the errors of each command, those of a calendar, an offset, a TON or an NPI; no other command has any. -/
theorem validationErrorExactly : Obligations.ValidationErrorExactly := by
  intro i s
  rw [exec_failed_iff]
  cases i with
  | dectoa => simp [Raises, and_assoc]
  | enctoa => simp [Raises, imp_iff_not_or]
  | _ => simp [Raises]

/-- Settles O27: ENC7's loop answers no indices exactly when a character has none, and no other command has this error. -/
theorem encodingErrorExactly : Obligations.EncodingErrorExactly := by
  refine ⟨fun c => ⟨if_pos rfl, if_pos rfl⟩, fun i s => ?_⟩
  rw [exec_failed_iff]
  cases i with
  | enc7 pad => simp [Raises, indexList_eq_none_iff_exists]
  | _ => simp [Raises]

/-- Settles O28: of the errors of each command, those of the operand's form and of a capacity; the capacities of DECNUM, ENCDATE
and ENCTOA are the ones the statement sets aside. -/
theorem malformedInputErrorExactly : Obligations.MalformedInputErrorExactly := by
  intro i s within
  rw [exec_failed_iff]
  cases i with
  | decdate => simp [Raises, ReadsHex, -not_and, not_and_or, or_assoc]
  | dectoa => simp [Raises, ReadsHex, -not_and, not_and_or, or_assoc]
  | decnum =>
    have fits : Exceeds s.config.maxText (numberText s.inHex).length → ¬ HexOperand s.inHex :=
      fun tooLong operand => within (.inl ⟨rfl, operand, tooLong⟩)
    simpa [Raises, ReadsHex] using fits
  | encdate =>
    have fits : DateAccepted s.inRec → ¬ Exceeds s.config.maxHex 14 :=
      fun accepted tooLong => within (.inr (.inl ⟨rfl, accepted, tooLong⟩))
    simpa [Raises, ReadsHex] using fits
  | enctoa =>
    have fits : ToaEncodable s.config s.inRec → ¬ Exceeds s.config.maxHex 2 :=
      fun encodable tooLong => within (.inr (.inr ⟨rfl, encodable, tooLong⟩))
    simpa [Raises, ReadsHex] using fits
  | _ => simp [Raises, ReadsHex]

/-- Settles O4: R72 classifies such a word as illegal, and the unit raises IllegalCommand before it looks at an operand. -/
theorem undispatchedWordIsIllegalCommand : Obligations.UndispatchedWordIsIllegalCommand := by
  intro s ending undispatched
  obtain ⟨why, illegal⟩ := decode_illegal_of_not_dispatched undispatched
  obtain ⟨-, ⟨i, command, -⟩ | ⟨-, -, run⟩⟩ | ⟨notReady, -⟩ := step_cases s
  · simp [command] at illegal
  · rw [run, failed_eq_raise]
  · simp [(unitReady_iff s).mpr ending] at notReady

/-- Settles O9: a step is the hazard or answers a next state. -/
theorem onlyHostHazardStops : Obligations.OnlyHostHazardStops := by
  intro s
  obtain ⟨writing, hazard⟩ | ⟨t, next⟩ := step_hazard_or_next s
  · exact ⟨fun _ _ => writing, by simp [hazard]⟩
  · exact ⟨by simp [next], by simp [next]⟩

/-- Settles O8: the delay is not over, so the host's write meets BUSY. -/
theorem writeWhileBusyIsHostHazard : Obligations.WriteWhileBusyIsHostHazard := by
  intro s a rest busy delayed next writes
  rw [step_hostAct (fun ⟨_, ended⟩ => delayed ended) next]
  exact hostAct_hazard busy writes

end Sys2Proof.Proofs
end

section
/-!
PROOFS. The family 70_reset_and_hazards.md. First the turns of the unit and of a host with nothing to do, then what a turn does for
a host that keeps the protocol and to the operands of a running command, then the run of a command the host waits for, then the
outcome of a command as a function of its operand, then the statements.
-/

namespace Sys2Proof.Proofs

open Sys2Proof Sys2Proof.Machine Sys2Proof.Claim Sys2Proof.Laws

/-! ### The turns of the unit and of a host with nothing to do -/

theorem step_unitTurn {s : State} (ending : Ending s) : step s = unitTurn s :=
  if_pos ((unitReady_iff s).mpr ending)

theorem unitTurn_command {s : State} {i : Instr} (command : decode s.cmd = .command i) : unitTurn s = exec i s := by
  rw [unitTurn, command]

theorem unitTurn_illegal {s : State} (noCommand : ∀ i, decode s.cmd ≠ .command i) :
    unitTurn s = failed s .illegalCommand := by
  cases e : decode s.cmd with
  | command i => exact absurd e (noCommand i)
  | illegal why => rw [unitTurn, e, failed_eq_raise]

/-- The unit's turn ends the command, and the operands, CMD and the host's list stand as before. -/
theorem unitTurn_ends (s : State) : ∃ t, unitTurn s = .next t ∧ t.isBusy = false ∧ t.host = s.host ∧
    t.inHex = s.inHex ∧ t.inText = s.inText ∧ t.inRec = s.inRec ∧ t.cmd = s.cmd := by
  by_cases command : ∃ i, decode s.cmd = .command i
  · obtain ⟨i, command⟩ := command
    obtain ⟨t, run, -⟩ := everyCommandAnswers i s
    obtain ⟨free, cmd, inHex, inText, inRec, -, host, -⟩ := exec_kept run
    exact ⟨t, (unitTurn_command command).trans run, free, host, inHex, inText, inRec, cmd⟩
  · exact ⟨_, unitTurn_illegal (not_exists.mp command), rfl, rfl, rfl, rfl, rfl, rfl⟩

theorem step_idleHost {s : State} (notEnding : ¬ Ending s) (empty : s.host = []) : step s = .next s.tick := by
  rcases step_cases s with ⟨ready, -⟩ | ⟨-, ⟨-, run⟩ | ⟨a, rest, host, -⟩⟩
  · exact absurd ((unitReady_iff s).mp ready) notEnding
  · exact run
  · simp [empty] at host

theorem tick_of_free {s : State} (free : s.status ≠ statusBusy) : s.tick = s := if_neg (mt (isBusy_iff s).mp free)

/-! ### A host that keeps the protocol -/

theorem safe_of_same {s t : State} (safe : Safe s) (status : t.status = s.status) (host : t.host = s.host) : Safe t := by
  rwa [Safe, State.isBusy, status, host]

/-- With no command running a host may go on with any list that keeps the protocol, also one that has to wait first. -/
theorem safe_of_free {s : State} {started : Bool} (protocol : keepsProtocol started s.host = true) (free : s.isBusy = false) :
    Safe s := by
  rw [Safe, free]
  cases started with
  | false => exact protocol
  | true => exact keepsProtocol_weaken protocol

theorem hostWrite_safe {s e : State} (free : s.isBusy = false) (safe : Safe e) : ∃ t, hostWrite s e = .next t ∧ Safe t :=
  ⟨e, if_neg (by simp [free]), safe⟩

/-- A turn of the host with the first action of a list that keeps the protocol: a write comes only while no command runs. -/
theorem hostAct_safe {a : HostAction} {s : State} (protocol : keepsProtocol s.isBusy (a :: s.host) = true) :
    ∃ t, hostAct a s = .next t ∧ Safe t := by
  obtain ⟨read, reset, waitBusy, waitFree⟩ := hostAct_quiet s
  cases a <;> simp only [keepsProtocol, Bool.and_eq_true, Bool.not_eq_true'] at protocol
  case wrHex chars =>
    obtain ⟨free, protocol⟩ := protocol
    exact hostWrite_safe free (safe_of_same protocol (writeHex_status s chars) (writeHex_host s chars))
  case wrText values =>
    obtain ⟨free, protocol⟩ := protocol
    exact hostWrite_safe free (safe_of_same protocol (writeText_status s values) (writeText_host s values))
  case wrRec r =>
    obtain ⟨free, protocol⟩ := protocol
    exact hostWrite_safe free (safe_of_same protocol rfl rfl)
  case cmd w =>
    obtain ⟨free, protocol⟩ := protocol
    exact hostWrite_safe free protocol
  case wait =>
    by_cases busy : s.status = statusBusy
    · exact ⟨_, waitBusy busy, protocol⟩
    · exact ⟨s, waitFree busy, safe_of_free protocol ((isBusy_false s).mpr busy)⟩
  case rd r => exact ⟨_, read r, safe_of_same protocol (tick_status _) (tick_host _)⟩
  case reset => exact ⟨_, reset, protocol⟩

/-! ### The operands of a running command -/

/-- While a command runs, a turn of the host that is no reset leaves the unit's own part as it is. -/
theorem block_hostAct_of_busy {a : HostAction} {s t : State} (busy : s.status = statusBusy) (noReset : a ≠ .reset)
    (next : hostAct a s = .next t) : block t = block s := by
  by_cases writes : Writes a
  · cases (hostAct_hazard busy writes).symm.trans next
  · obtain ⟨read, -, waitBusy, -⟩ := hostAct_quiet s
    cases a with
    | wait =>
      cases (waitBusy busy).symm.trans next
      exact block_tick s
    | rd r =>
      cases (read r).symm.trans next
      exact block_tick (s.observe r)
    | reset => exact absurd rfl noReset
    | wrHex _ | wrText _ | wrRec _ | cmd _ => exact absurd trivial writes

theorem operands_of_block {s t : State} (same : block t = block s) :
    t.inHex = s.inHex ∧ t.inText = s.inText ∧ t.inRec = s.inRec ∧ t.cmd = s.cmd := by
  simp only [block, State.mk.injEq] at same
  obtain ⟨cmd, -, -, inHex, inText, inRec, -⟩ := same
  exact ⟨inHex, inText, inRec, cmd⟩

/-! ### The run of a command the host waits for -/

/-- A host that waits for the command, or has nothing more to do. -/
abbrev Awaits (l : List HostAction) : Prop := l = [] ∨ ∃ more, l = .wait :: more

/-- The command `w` of the host of `s` is running, `d` more turns of the host pass before its end, and `rest` is what the host has
still to do (70_reset_and_hazards.md R262; log 2). -/
def running (s : State) (w : Word) (rest : List HostAction) (d : Nat) : State :=
  { started s w with host := rest, delay := d, issued := s.issued + 1 }

theorem step_cmd {s : State} {w : Word} {rest : List HostAction} (free : s.status ≠ statusBusy)
    (next : s.host = .cmd w :: rest) : step s = .next (running s w rest (Config.freeBusyDelay s.issued)) :=
  step_hostWrite free next rfl

theorem run_succ {s t : State} (next : step s = .next t) (k : Nat) :
    Host.Core.run core (k + 1) s = Host.Core.run core k t := by
  have coreNext : core.step s = .next t := next
  simp only [Host.Core.run, coreNext]

section
variable {s : State} {w : Word} {rest : List HostAction} (awaits : Awaits rest)
include awaits

theorem step_running (d : Nat) : step (running s w rest (d + 1)) = .next (running s w rest d) := by
  rcases awaits with rfl | ⟨more, rfl⟩
  · rw [step_idleHost (fun ⟨_, ended⟩ => Nat.succ_ne_zero d ended) rfl, tick_eq]
    rfl
  · exact (waitPollsUntilNotBusy (running s w (.wait :: more) (d + 1)) more rfl).2 rfl (Nat.succ_ne_zero d)

/-- While the delay passes nothing changes but the delay. -/
theorem run_running (d k : Nat) : Host.Core.run core k (running s w rest (d + k)) = .next (running s w rest d) := by
  induction k with
  | zero => rfl
  | succ k ih => exact (run_succ (step_running awaits (d + k)) k).trans ih

theorem run_command {t : State} (ends : unitTurn (running s w rest 0) = .next t) (d : Nat) :
    Host.Core.run core (d + 1) (running s w rest d) = .next t := by
  induction d with
  | zero => exact run_succ ((step_unitTurn ⟨rfl, rfl⟩).trans ends) 0
  | succ d ih => exact (run_succ (step_running awaits d) (d + 1)).trans ih

end

/-! ### A command's outcome as a function of its operand -/

/-- What 70_reset_and_hazards.md R262 calls a command's outcome: STATUS, ERRCODE and the result buffers. -/
def SameOutcome (s t : State) : Prop :=
  s.status = t.status ∧ s.errcode = t.errcode ∧ s.outHex = t.outHex ∧ s.outText = t.outText ∧ s.outRec = t.outRec

/-- ERRCODE and the result buffers, which an outcome is written over, stand alike. -/
def SameResults (s t : State) : Prop :=
  s.errcode = t.errcode ∧ s.outHex = t.outHex ∧ s.outText = t.outText ∧ s.outRec = t.outRec

theorem sameResults_of_cleared {s t : State} (cleared : s.ResultsCleared) (cleared' : t.ResultsCleared)
    (noError : s.errcode = errNone) (noError' : t.errcode = errNone) : SameResults s t := by
  obtain ⟨hex, text, record⟩ := cleared
  obtain ⟨hex', text', record'⟩ := cleared'
  exact ⟨noError.trans noError'.symm, hex.trans hex'.symm, text.trans text'.symm, record.trans record'.symm⟩

section
variable {s t : State} (results : SameResults s t)
include results

theorem sameOutcome_finishHex {r r' : Except ErrKind HexString} (same : r = r') :
    SameOutcome (s.finishHex r) (t.finishHex r') := by
  subst same
  obtain ⟨errcode, hex, text, record⟩ := results
  cases r with
  | ok v => exact ⟨rfl, errcode, rfl, text, record⟩
  | error k => exact ⟨rfl, rfl, hex, text, record⟩

theorem sameOutcome_finishText {r r' : Except ErrKind Text} (same : r = r') :
    SameOutcome (s.finishText r) (t.finishText r') := by
  subst same
  obtain ⟨errcode, hex, text, record⟩ := results
  cases r with
  | ok v => exact ⟨rfl, errcode, hex, rfl, record⟩
  | error k => exact ⟨rfl, rfl, hex, text, record⟩

theorem sameOutcome_finishRec {r r' : Except ErrKind Rec} (same : r = r') :
    SameOutcome (s.finishRec r) (t.finishRec r') := by
  subst same
  obtain ⟨errcode, hex, text, record⟩ := results
  cases r with
  | ok v => exact ⟨rfl, errcode, hex, text, rfl⟩
  | error k => exact ⟨rfl, rfl, hex, text, record⟩

end

theorem encdate_congr {c : Config} {r r' : Rec} (time : timeOf r = timeOf r') (present : r.tzPresent = r'.tzPresent)
    (quarters : r.tzQuarters = r'.tzQuarters) : encdate c r = encdate c r' := by
  cases r
  cases r'
  simp only [timeOf, CivilTime.mk.injEq, Int.natCast_inj, BitVec.toNat_inj] at time present quarters
  obtain ⟨rfl, rfl, rfl, rfl, rfl, rfl⟩ := time
  subst present quarters
  rfl

theorem enctoa_congr {c : Config} {r r' : Rec} (ton : r.ton = r'.ton) (npi : r.npi = r'.npi) : enctoa c r = enctoa c r' := by
  simp only [enctoa, ton, npi]

/-- Each command is the completion with its function's answer, and the function reads the operand and the ROM alone. -/
theorem exec_sameOutcome {i : Instr} {s t : State} (config : s.config = t.config) (operand : SameOperand s t i)
    (results : SameResults s t) : ∃ s' t', exec i s = .next s' ∧ exec i t = .next t' ∧ SameOutcome s' t' := by
  cases i with
  | revo => exact ⟨_, _, exec_revo s, exec_revo t, sameOutcome_finishHex results (congrArg revo operand)⟩
  | swpn => exact ⟨_, _, exec_swpn s, exec_swpn t, sameOutcome_finishHex results (congrArg swpn operand)⟩
  | dec7 strip =>
    exact ⟨_, _, exec_dec7 strip s, exec_dec7 strip t,
      sameOutcome_finishText results (congrArg₂ (dec7 · strip) config operand)⟩
  | enc7 pad =>
    exact ⟨_, _, exec_enc7 pad s, exec_enc7 pad t, sameOutcome_finishHex results (congrArg₂ (enc7 · pad) config operand)⟩
  | decdate => exact ⟨_, _, exec_decdate s, exec_decdate t, sameOutcome_finishRec results (congrArg decdate operand)⟩
  | encdate =>
    obtain ⟨time, present, quarters⟩ := operand
    exact ⟨_, _, exec_encdate s, exec_encdate t,
      sameOutcome_finishHex results (config ▸ encdate_congr time present quarters)⟩
  | decnum => exact ⟨_, _, exec_decnum s, exec_decnum t, sameOutcome_finishText results (congrArg₂ decnum config operand)⟩
  | encnum => exact ⟨_, _, exec_encnum s, exec_encnum t, sameOutcome_finishHex results (congrArg₂ encnum config operand)⟩
  | dectoa => exact ⟨_, _, exec_dectoa s, exec_dectoa t, sameOutcome_finishRec results (congrArg₂ dectoa config operand)⟩
  | enctoa =>
    obtain ⟨ton, npi⟩ := operand
    exact ⟨_, _, exec_enctoa s, exec_enctoa t, sameOutcome_finishHex results (config ▸ enctoa_congr ton npi)⟩

/-! ### The statements -/

/-- Settles O10: the end of a command leaves the host's list with no command running, and a turn of the host takes its first
action, which is a write only while no command runs. -/
theorem protocolKeepingHostIsNeverStopped : Obligations.ProtocolKeepingHostIsNeverStopped := by
  intro s safe
  unfold Safe at safe
  by_cases ending : Ending s
  · obtain ⟨t, run, free, host, -⟩ := unitTurn_ends s
    exact ⟨t, (step_unitTurn ending).trans run, safe_of_free (host ▸ safe) free⟩
  · cases host : s.host with
    | nil => exact ⟨_, step_idleHost ending host, safe_of_same safe (tick_status s) (tick_host s)⟩
    | cons a rest =>
      rw [step_hostAct ending host]
      exact hostAct_safe (s := { s with host := rest }) (host ▸ safe)

/-- Settles O7: the write of CMD, the turns of the delay, and the unit's turn on the operands, which the delay leaves as they
were. -/
theorem everyCommandCompletes : Obligations.EveryCommandCompletes := by
  intro s w rest free next awaits
  have begins := step_cmd free next
  generalize Config.freeBusyDelay s.issued = d at begins
  obtain ⟨t, ends, ended, -⟩ := unitTurn_ends (running s w rest 0)
  refine ⟨d + 1 + 1, t, (run_succ begins _).trans (run_command awaits ends d), (isBusy_false t).mp ended,
    fun i command => ?_, fun noCommand => ?_, fun k positive within => ?_⟩
  · exact (unitTurn_command (s := running s w rest 0) command).symm.trans ends
  · exact (unitTurn_illegal (s := running s w rest 0) noCommand).symm.trans ends
  · obtain ⟨j, rfl⟩ := Nat.exists_eq_add_of_le' positive
    obtain ⟨left, rfl⟩ := Nat.exists_eq_add_of_le' (show j ≤ d by omega)
    exact ⟨running s w rest left, (run_succ begins j).trans (run_running awaits left j), rfl⟩

/-- Settles O19: the end of a command keeps them, and so does every turn of the host but a reset. -/
theorem operandsStableWhileBusy : Obligations.OperandsStableWhileBusy := by
  intro s t busy next noReset
  by_cases ending : Ending s
  · obtain ⟨t', run, -, -, operands⟩ := unitTurn_ends s
    cases ((step_unitTurn ending).trans run).symm.trans next
    exact operands
  · have same : block t = block s := by
      cases host : s.host with
      | nil =>
        cases (step_idleHost ending host).symm.trans next
        exact block_tick s
      | cons a rest =>
        exact block_hostAct_of_busy (s := { s with host := rest }) busy (fun reset => noReset rest (reset ▸ host))
          ((step_hostAct ending host).symm.trans next)
    exact operands_of_block same

/-- Settles O25: the two runs are completions with one answer. -/
theorem outcomeDependsOnOperandAndRomOnly : Obligations.OutcomeDependsOnOperandAndRomOnly := by
  intro i s t s' t' config operand cleared cleared' noError noError' runS runT
  have results := sameResults_of_cleared cleared cleared' noError noError'
  obtain ⟨s'', t'', nextS, nextT, same⟩ := exec_sameOutcome config operand results
  cases nextS.symm.trans runS
  cases nextT.symm.trans runT
  exact same

/-- Settles O5: where a command is ending the step is the unit's turn. -/
theorem stepRunsTheDecodedCommand : Obligations.StepRunsTheDecodedCommand :=
  fun _ _ ending command => (step_unitTurn ending).trans (unitTurn_command command)

/-- Settles O6: a write of CMD while STATUS is not BUSY is the start of a command. -/
theorem commandWriteStartsCommand : Obligations.CommandWriteStartsCommand :=
  fun _ _ _ free next => step_cmd free next

/-- Settles O16: the reset is a turn of the host, whether or not a command runs. -/
theorem resetEventAbandonsTheCommand : Obligations.ResetEventAbandonsTheCommand := by
  intro s rest notEnding next
  obtain ⟨-, reset, -⟩ := hostAct_quiet { s with host := rest }
  exact (step_hostAct notEnding next).trans reset

/-- Settles O17: it is the host's turn, with nothing to do and no delay to pass. -/
theorem finishedRunIsStable : Obligations.FinishedRunIsStable := by
  rintro s ⟨empty, free⟩
  rw [step_idleHost (fun ⟨busy, _⟩ => free busy) empty, tick_of_free free]

end Sys2Proof.Proofs
end
